-- ==== Sys2Proof/Word.lean ====
section
/-! DEFINITION. The bit vectors of the machine: bytes of DMEM (`10_state.md` R36) and 32-bit register words
(`10_state.md` R21), and byte strings (`00_scope.md` R10). -/

namespace Sys2Proof

/-- A byte of DMEM or of a byte string (`00_scope.md` R10). -/
abbrev Byte := BitVec 8

/-- A 32-bit word: a register's contents, a command word, a SHA-256 word (`10_state.md` R21; `40_sha256.md` R121). -/
abbrev Word := BitVec 32

/-- A byte string, index 0 first (`00_scope.md` R10). -/
abbrev Bytes := List Byte

end Sys2Proof
end

