-- ==== Sys2Proof/Syntax.lean ====
section
/-! DEFINITION. The commands of the core, the closed set of `30_encoding.md` R94: one constructor per row of
spec/opcode_table.json. A command's other operands are not in the word (R95, R97). -/

namespace Sys2Proof

/-- A command of `30_encoding.md` R94. Only SHA256 and B64U_ENCODE have an operand in the command word, FLAGS
bit 0 (R92). -/
inductive Instr where
  | sha256 (hex : Bool)
  | hmacSha256
  | hmacVerify
  | b64uEncode (pad : Bool)
  | b64uDecode
  | emsaPkcs1Encode
  | mgf1
  | emsaPssEncode
  | emsaPssVerify
  | i2osp
  | rsasp1
  | rsavp1
  | rs256Sign
  | rs256Verify
  | ps256Sign
  | ps256Verify
  | ecDouble
  | ecAdd
  | ecScalarMul
  | ecOnCurve
  | es256Sign
  | es256Verify
deriving DecidableEq, Repr

end Sys2Proof
end

