-- ==== Sys2Proof/WellFormed.lean ====
section
/-! DEFINITION. When a command word spells a command (`30_encoding.md` R90 to R94, R99), said by arithmetic on the
word's value and independently of the decoder, and when a command is well formed. -/

namespace Sys2Proof

/-- RSVD = W[31:16] is 0 (`30_encoding.md` R93). -/
def wordReservedZero (w : Word) : Bool := w.toNat / 2 ^ 16 == 0

/-- OPCODE = W[7:0] is one of the defined opcodes, that is none of the reserved ones of `30_encoding.md` R99. -/
def wordOpcodeDefined (w : Word) : Bool :=
  let op := w.toNat % 256
  !(op == 0x00 || op == 0x06 || op == 0x07 || (0x0C ≤ op && op ≤ 0x0F) || op == 0x17 || 0x1E ≤ op)

/-- FLAGS = W[15:8] is 0, or 0 or 1 for the two opcodes that define its bit 0 (`30_encoding.md` R92). -/
def wordFlagsLegal (w : Word) : Bool :=
  let op := w.toNat % 256
  let flags := w.toNat / 256 % 256
  if op == 0x01 || op == 0x04 then decide (flags ≤ 1) else flags == 0

/-- The word spells a command (`30_encoding.md` R90 to R94, R99). -/
def wordWellFormed (w : Word) : Bool :=
  wordReservedZero w && wordOpcodeDefined w && wordFlagsLegal w

/-- A command is well formed. Each term of `Instr` is: the one operand a command word holds is a single bit, and
both its values are legal (`30_encoding.md` R92). What can be ill formed is a command word (`wordWellFormed`). -/
def Instr.wellFormed (_ : Instr) : Bool := true

end Sys2Proof
end

