-- ==== Sys2Proof/Decode.lean ====
section
/-! DEFINITION. The decoder of `30_encoding.md` R98, total on every command word and refusing by name, and the
encoder of R94 after it. -/

namespace Sys2Proof

/-- OPCODE = W[7:0] (`30_encoding.md` R91). -/
def fieldOpcode (w : Word) : BitVec 8 := w.extractLsb' 0 8

/-- FLAGS = W[15:8] (`30_encoding.md` R92). -/
def fieldFlags (w : Word) : BitVec 8 := w.extractLsb' 8 8

/-- RSVD = W[31:16] (`30_encoding.md` R93). -/
def fieldRsvd (w : Word) : BitVec 16 := w.extractLsb' 16 16

/-- Why a word spells no command, the four lines of `30_encoding.md` R98; the core reports ILLEGAL_CMD for each. -/
inductive DecodeError where
  /-- W[31:16] ≠ 0. -/
  | reservedBits
  /-- W[7:0] is not in the table of R94. -/
  | reservedOpcode
  /-- SHA256 or B64U_ENCODE with W[15:9] ≠ 0. -/
  | undefinedFlagBits
  /-- Another opcode with W[15:8] ≠ 0. -/
  | flagsNotZero
deriving DecidableEq, Repr

/-- The table of `30_encoding.md` R94: the command of an opcode and of FLAGS bit 0 (which only SHA256 and
B64U_ENCODE read). -/
def commandOf (opcode : BitVec 8) (flag0 : Bool) : Option Instr :=
  match opcode.toNat with
  | 0x01 => some (.sha256 flag0)
  | 0x02 => some .hmacSha256
  | 0x03 => some .hmacVerify
  | 0x04 => some (.b64uEncode flag0)
  | 0x05 => some .b64uDecode
  | 0x08 => some .emsaPkcs1Encode
  | 0x09 => some .mgf1
  | 0x0A => some .emsaPssEncode
  | 0x0B => some .emsaPssVerify
  | 0x10 => some .i2osp
  | 0x11 => some .rsasp1
  | 0x12 => some .rsavp1
  | 0x13 => some .rs256Sign
  | 0x14 => some .rs256Verify
  | 0x15 => some .ps256Sign
  | 0x16 => some .ps256Verify
  | 0x18 => some .ecDouble
  | 0x19 => some .ecAdd
  | 0x1A => some .ecScalarMul
  | 0x1B => some .ecOnCurve
  | 0x1C => some .es256Sign
  | 0x1D => some .es256Verify
  | _ => none

/-- The command reads FLAGS bit 0 (`30_encoding.md` R92). -/
def Instr.hasFlag : Instr → Bool
  | .sha256 _ => true
  | .hmacSha256 => false
  | .hmacVerify => false
  | .b64uEncode _ => true
  | .b64uDecode => false
  | .emsaPkcs1Encode => false
  | .mgf1 => false
  | .emsaPssEncode => false
  | .emsaPssVerify => false
  | .i2osp => false
  | .rsasp1 => false
  | .rsavp1 => false
  | .rs256Sign => false
  | .rs256Verify => false
  | .ps256Sign => false
  | .ps256Verify => false
  | .ecDouble => false
  | .ecAdd => false
  | .ecScalarMul => false
  | .ecOnCurve => false
  | .es256Sign => false
  | .es256Verify => false

/-- Decode, the checks in the order of `30_encoding.md` R98. -/
def decode (w : Word) : Except DecodeError Instr :=
  if fieldRsvd w ≠ 0 then .error .reservedBits
  else match commandOf (fieldOpcode w) ((fieldFlags w).getLsbD 0) with
    | none => .error .reservedOpcode
    | some i =>
      if i.hasFlag then
        if (fieldFlags w) >>> 1 ≠ 0 then .error .undefinedFlagBits else .ok i
      else if fieldFlags w ≠ 0 then .error .flagsNotZero
      else .ok i

/-- The opcode of a command (`30_encoding.md` R94). -/
def Instr.opcode : Instr → Nat
  | .sha256 _ => 0x01
  | .hmacSha256 => 0x02
  | .hmacVerify => 0x03
  | .b64uEncode _ => 0x04
  | .b64uDecode => 0x05
  | .emsaPkcs1Encode => 0x08
  | .mgf1 => 0x09
  | .emsaPssEncode => 0x0A
  | .emsaPssVerify => 0x0B
  | .i2osp => 0x10
  | .rsasp1 => 0x11
  | .rsavp1 => 0x12
  | .rs256Sign => 0x13
  | .rs256Verify => 0x14
  | .ps256Sign => 0x15
  | .ps256Verify => 0x16
  | .ecDouble => 0x18
  | .ecAdd => 0x19
  | .ecScalarMul => 0x1A
  | .ecOnCurve => 0x1B
  | .es256Sign => 0x1C
  | .es256Verify => 0x1D

/-- The FLAGS of a command (`30_encoding.md` R92): HEX, PAD, or 0. -/
def Instr.flags : Instr → Nat
  | .sha256 hex => hex.toNat
  | .b64uEncode pad => pad.toNat
  | .hmacSha256 => 0
  | .hmacVerify => 0
  | .b64uDecode => 0
  | .emsaPkcs1Encode => 0
  | .mgf1 => 0
  | .emsaPssEncode => 0
  | .emsaPssVerify => 0
  | .i2osp => 0
  | .rsasp1 => 0
  | .rsavp1 => 0
  | .rs256Sign => 0
  | .rs256Verify => 0
  | .ps256Sign => 0
  | .ps256Verify => 0
  | .ecDouble => 0
  | .ecAdd => 0
  | .ecScalarMul => 0
  | .ecOnCurve => 0
  | .es256Sign => 0
  | .es256Verify => 0

/-- Encode: W = FLAGS << 8 | OPCODE (`30_encoding.md` R94). -/
def encode (i : Instr) : Word := BitVec.ofNat 32 (i.flags * 256 + i.opcode)

/-- The command that the decoder reads from an instruction of `nbits` bits of the opcode table whose bits are `w`.
A command is one 32-bit word (`30_encoding.md` R100). -/
def decodeTableWord (nbits w : Nat) : Option Instr :=
  match decode (BitVec.ofNat 32 (w % 2 ^ nbits)) with
  | .ok i => some i
  | .error _ => none

end Sys2Proof
end

