-- ==== Sys2Proof/Machine/Bytes.lean ====
section
/-! DEFINITION. Byte strings and their integers (`00_scope.md` R10, R11; `41_hmac.md` R143). -/

namespace Sys2Proof.Machine

/-- The string of `count` copies of a byte (`00_scope.md` R10: `b×c`). -/
def repeatByte (b : Byte) (count : Nat) : Bytes := List.replicate count b

/-- zeros(c) (`00_scope.md` R10). -/
def zeros (count : Nat) : Bytes := repeatByte 0 count

/-- X ⊕ Y, bytewise, for strings of one length (`00_scope.md` R10). -/
def xorBytes (x y : Bytes) : Bytes := List.zipWith (· ^^^ ·) x y

/-- The sub-string of `len` bytes from index `start` (`00_scope.md` R10: `X[start .. start+len−1]`). -/
def slice (x : Bytes) (start len : Nat) : Bytes := (x.drop start).take len

/-- OS2IP(X), the big-endian value of a byte string (`00_scope.md` R11). -/
def os2ip (x : Bytes) : Nat := x.foldl (fun acc b => acc * 256 + b.toNat) 0

/-- I2OSP(x, w), the big-endian string of length w, for x < 256^w (`00_scope.md` R11). -/
def i2osp (x : Nat) : (width : Nat) → Bytes
  | 0 => []
  | w + 1 => i2osp (x / 256) w ++ [BitVec.ofNat 8 x]

/-- BytesEqual(X, Y) (`41_hmac.md` R143). -/
def bytesEqual (x y : Bytes) : Bool := x == y

end Sys2Proof.Machine
end

