-- ==== Sys2Proof/Config.lean ====
section
/-! DEFINITION. What an implementation fixes (`00_scope.md` R7) and the values the spec leaves open. The open
values are opaque: nothing in Lean can evaluate them, so whatever is proved holds for each of their values. -/

namespace Sys2Proof.Config

/-- `DMEM_BYTES`, the size of the data memory in bytes (`00_scope.md` R7). -/
def dmemBytes : Nat := 65536

/-- `RSA_MAX_BITS`, the largest RSA `bitLength` accepted (`00_scope.md` R7). -/
def rsaMaxBits : Nat := 4096

/-- `ECDSA_MAX_TRIES`, the draws of `k` before ES256_SIGN gives up (`00_scope.md` R7). -/
def ecdsaMaxTries : Nat := 64

/-- FREE VALUE. The byte that DMEM holds at an offset from the given power-on until its first write
(`70_reset_and_hazards.md` R341 and R350: any value, stable until written). Log entry 1. -/
opaque powerOnByte : (powerOn : Nat) → (offset : Nat) → Byte

/-- FREE VALUE. Byte `index` of the RNG's answer to its draw number `draw`, where that draw is an `RngBytes`
(`70_reset_and_hazards.md` R348: any byte). Log entry 2. -/
opaque rngByte : (draw : Nat) → (index : Nat) → Byte

/-- FREE VALUE. The integer from which the RNG's draw number `draw` is made where that draw is an `RngScalar`;
the draw reduces it to the range of `70_reset_and_hazards.md` R348. Log entry 2. -/
opaque rngInteger : (draw : Nat) → Nat

/-- FREE VALUE. `CORE_BASE` in units of its alignment (`00_scope.md` R7, OPEN). Log entry 3. -/
opaque coreBaseIndex : Nat

/-- The size of the core's bus window in bytes (`20_memory.md` R60). -/
def windowBytes : Nat := 0x20000

/-- `CORE_BASE`, the bus address of offset 0 of the window: any multiple of 0x20000 (`00_scope.md` R7). Log
entry 3. -/
def coreBase : Nat := windowBytes * coreBaseIndex

end Sys2Proof.Config
end

