-- ==== Sys2Proof/Machine/State.lean ====
section
/-! DEFINITION. The state of the core as plain data (`10_state.md` R20 to R39), the events that may come to it, the
reasons a step can stop, and the state after reset (`70_reset_and_hazards.md` R340). -/

namespace Sys2Proof.Machine

/-- CTRL (`10_state.md` R23). Its reserved bits 31:2 are not stored. -/
structure Ctrl where
  /-- IE, bit 0: enables the completion interrupt. -/
  ie : Bool
  /-- EXT_RAND, bit 1: random values are read from DMEM instead of drawn from the RNG. -/
  extRand : Bool
deriving DecidableEq, Repr

/-- STATUS (`10_state.md` R24) but for BUSY, which is 1 exactly when the in-flight record is not empty (R33) and is
stored as the presence of that record. The reserved bits 31:6 are not stored. -/
structure Status where
  /-- DONE, bit 1, W1C. -/
  done : Bool
  /-- ERR, bit 2. -/
  err : Bool
  /-- VALID, bit 3. -/
  valid : Bool
  /-- CMD_OVERRUN, bit 4, W1C. -/
  cmdOverrun : Bool
  /-- ACCESS_ERR, bit 5, W1C. -/
  accessErr : Bool
deriving DecidableEq, Repr

/-- The general registers ARG0 to ARG7 (`10_state.md` R28). -/
structure Args where
  a0 : Word
  a1 : Word
  a2 : Word
  a3 : Word
  a4 : Word
  a5 : Word
  a6 : Word
  a7 : Word
deriving DecidableEq, Repr

/-- The in-flight record (`10_state.md` R33): what R37 takes at issue. -/
structure InFlight where
  /-- W, the accepted command word. -/
  word : Word
  /-- A[0..7], the copy of ARG0..ARG7. -/
  args : Args
  /-- X, the copy of CTRL.EXT_RAND. -/
  extRand : Bool
deriving DecidableEq, Repr

/-- The data memory DMEM (`10_state.md` R36): the bytes written since power-on, addresses strictly rising. An
unlisted offset has no value of its own: it reads as the free byte of the power-on (`70_reset_and_hazards.md` R341,
R350; log entry 1). -/
structure Memory where
  /-- The bytes written since power-on, by DMEM offset. -/
  cells : List Host.Cell
  /-- The model's own: which power-on the unwritten bytes stem from. -/
  powerOn : Nat
deriving DecidableEq, Repr

/-- The size of a host access (`20_memory.md` R63). -/
inductive AccessSize where
  | byte
  | half
  | word
deriving DecidableEq, Repr

/-- An offset into the core's 0x20000-byte bus window (`20_memory.md` R60). -/
abbrev Offset := BitVec 17

/-- A host access (`20_memory.md` R63). A write carries a 32-bit value, of which an access of size s uses the low
s bytes (R68). -/
inductive HostAccess where
  | read (size : AccessSize) (offset : Offset)
  | write (size : AccessSize) (offset : Offset) (value : Word)
deriving DecidableEq, Repr

/-- One event of the total order of `20_memory.md` R76, extended by the reset input (`70_reset_and_hazards.md` R340)
and by power-on (R341). -/
inductive Turn where
  /-- A host access. -/
  | host (access : HostAccess)
  /-- The sequencer moves, if it is enabled (`10_state.md` R38). -/
  | completion
  /-- The reset input is asserted (`70_reset_and_hazards.md` R340, R343). -/
  | resetInput
  /-- Power is switched on again: reset, and every DMEM byte holds a new unspecified value (R341). -/
  | powerOn
deriving DecidableEq, Repr

/-- An error of a command, a row of `60_exceptions.md` R302. -/
inductive CmdError where
  | b64BadChar
  | b64BadPad
  | outOfBounds
  | overlap
  | badKey
  | badPoint
  | badNonce
  | sigLength
  | repOutOfRange
  | intTooLarge
  | maskTooLong
  | encTooShort
  | encError
  | noInverse
  | nonceRejected
  | illegalCmd
deriving DecidableEq, Repr

/-- The state of the core. INVENTORY.md lists each field with its rule and its reset value. -/
structure State where
  /-- CTRL (`10_state.md` R23). -/
  ctrl : Ctrl
  /-- STATUS but for BUSY (`10_state.md` R24). -/
  status : Status
  /-- CMD_LAST, the last accepted command word (`10_state.md` R25). -/
  cmdLast : Word
  /-- ERRCODE (`10_state.md` R26). -/
  errcode : Word
  /-- RESULT_LEN (`10_state.md` R27). -/
  resultLen : Word
  /-- ARG0 to ARG7 (`10_state.md` R28). -/
  args : Args
  /-- The in-flight record, `none` when it is empty (`10_state.md` R33). -/
  inflight : Option InFlight
  /-- DMEM (`20_memory.md` R62). -/
  dmem : Memory
  /-- The model's own: how many draws the RNG has answered (log entry 2). -/
  rngDraws : Nat
  /-- The model's own: the value the last host read returned (log entry 5). -/
  readData : Word
  /-- The model's own: the events still to come, oldest first (log entry 4). -/
  turns : List Turn
deriving DecidableEq, Repr

/-- Why the model stops. The core itself never does: `60_exceptions.md` R300 and `20_memory.md` R63 to R69 give
every command and every host access a result. -/
inductive Fault where
  /-- Raised by a command's meaning that is asked to complete in a state with no command in flight, where
  `10_state.md` R38 does not enable it. `step` never asks it to. Safe: the model stops and claims nothing. -/
  | noCommandInFlight
deriving DecidableEq, Repr

/-- Instructions without a meaning. -/
inductive Refusal where
  /-- Raised by `exec` for an instruction that the model gives no meaning. No arm of `exec` does so. Safe. -/
  | notModelled (mnemonic : String)
deriving DecidableEq, Repr

/-- DMEM right after a power-on: nothing is written (`70_reset_and_hazards.md` R341). -/
def Memory.atPowerOn (n : Nat) : Memory := { cells := [], powerOn := n }

/-- ARG0 to ARG7 after reset (`70_reset_and_hazards.md` R340). -/
def Args.zero : Args := { a0 := 0, a1 := 0, a2 := 0, a3 := 0, a4 := 0, a5 := 0, a6 := 0, a7 := 0 }

/-- The state right after the first power-on reset (`70_reset_and_hazards.md` R340, R341), with no event to come
(log entries 2, 4 and 5 name the values of the model's own fields). -/
def State.reset : State where
  ctrl := { ie := false, extRand := false }
  status := { done := false, err := false, valid := false, cmdOverrun := false, accessErr := false }
  cmdLast := 0
  errcode := 0
  resultLen := 0
  args := Args.zero
  inflight := none
  dmem := Memory.atPowerOn 0
  rngDraws := 0
  readData := 0
  turns := []

end Sys2Proof.Machine
end

