-- ==== Sys2Proof/Machine/Flags.lean ====
section
/-! DEFINITION. The register words as the host sees them, every flag of STATUS (`10_state.md` R23, R24, R32, R39)
and the error codes (`60_exceptions.md` R301, R302). -/

namespace Sys2Proof.Machine

/-- STATUS.BUSY: the in-flight record is not empty (`10_state.md` R33). -/
def State.busy (s : State) : Bool := s.inflight.isSome

/-- The interrupt output: CTRL.IE AND STATUS.DONE (`10_state.md` R39; `60_exceptions.md` R308). -/
def State.irq (s : State) : Bool := s.ctrl.ie && s.status.done

/-- The word a read of CTRL returns (`10_state.md` R23). -/
def Ctrl.toWord (c : Ctrl) : Word := BitVec.ofNat 32 (c.ie.toNat + 2 * c.extRand.toNat)

/-- What a write of a word leaves in CTRL: the reserved bits are not stored (`10_state.md` R23). -/
def Ctrl.ofWord (w : Word) : Ctrl := { ie := w.getLsbD 0, extRand := w.getLsbD 1 }

/-- The word a read of STATUS returns (`10_state.md` R24). -/
def State.statusWord (s : State) : Word :=
  BitVec.ofNat 32 (s.busy.toNat + 2 * s.status.done.toNat + 4 * s.status.err.toNat + 8 * s.status.valid.toNat +
    16 * s.status.cmdOverrun.toNat + 32 * s.status.accessErr.toNat)

/-- A write to STATUS clears each W1C bit whose bit in the written value is 1, and changes nothing else
(`10_state.md` R24; the acknowledge of `60_exceptions.md` R309). -/
def Status.writeOneToClear (t : Status) (w : Word) : Status :=
  { t with
    done := t.done && !w.getLsbD 1
    cmdOverrun := t.cmdOverrun && !w.getLsbD 4
    accessErr := t.accessErr && !w.getLsbD 5 }

/-- The CLASS of an error (`60_exceptions.md` R301, R302): 1 FORMAT, 2 INVALID_INPUT, 3 UNSUPPORTED, 4 RANGE. -/
def CmdError.cls : CmdError → Nat
  | .b64BadChar => 1
  | .b64BadPad => 1
  | .outOfBounds => 2
  | .overlap => 2
  | .badKey => 2
  | .badPoint => 2
  | .badNonce => 2
  | .sigLength => 2
  | .repOutOfRange => 4
  | .intTooLarge => 4
  | .maskTooLong => 4
  | .encTooShort => 4
  | .encError => 4
  | .noInverse => 4
  | .nonceRejected => 4
  | .illegalCmd => 3

/-- The DETAIL of an error (`60_exceptions.md` R302). -/
def CmdError.detail : CmdError → Nat
  | .b64BadChar => 0x01
  | .b64BadPad => 0x02
  | .outOfBounds => 0x10
  | .overlap => 0x11
  | .badKey => 0x12
  | .badPoint => 0x13
  | .badNonce => 0x14
  | .sigLength => 0x15
  | .repOutOfRange => 0x20
  | .intTooLarge => 0x21
  | .maskTooLong => 0x22
  | .encTooShort => 0x23
  | .encError => 0x24
  | .noInverse => 0x25
  | .nonceRejected => 0x26
  | .illegalCmd => 0x30

/-- The value of ERRCODE after an error: DETAIL·256 + CLASS (`60_exceptions.md` R302). -/
def CmdError.code (e : CmdError) : Word := BitVec.ofNat 32 (e.detail * 256 + e.cls)

/-- ERRCODE.CLASS = bits 3:0 (`10_state.md` R26). -/
def errcodeClass (w : Word) : Nat := (w.extractLsb' 0 4).toNat

end Sys2Proof.Machine
end

