-- ==== Sys2Proof/Machine/Ops.lean ====
section
/-! DEFINITION. The named operations over DMEM and the registers, command issue (`10_state.md` R37), command
completion with success or error (R38; `60_exceptions.md` R304) and reset (`70_reset_and_hazards.md` R340). -/

namespace Sys2Proof.Machine

/-! ### DMEM -/

/-- The byte a list of written cells holds at an offset, if one was written there. -/
def lookupCell : List Host.Cell → Nat → Option Byte
  | [], _ => none
  | (a, b) :: rest, i => if a = i then some b else lookupCell rest i

/-- A list of cells with the byte at an offset set, addresses kept strictly rising. -/
def insertCell : List Host.Cell → Nat → Byte → List Host.Cell
  | [], i, v => [(i, v)]
  | (a, b) :: rest, i, v =>
    if i < a then (i, v) :: (a, b) :: rest
    else if i = a then (i, v) :: rest
    else (a, b) :: insertCell rest i v

/-- The byte of DMEM at an offset: the last one written, or since power-on unwritten the free byte of
`70_reset_and_hazards.md` R341 and R350 (log entry 1). -/
def Memory.byte (m : Memory) (i : Nat) : Byte :=
  match lookupCell m.cells i with
  | some b => b
  | none => Config.powerOnByte m.powerOn i

/-- DMEM with one byte written. -/
def Memory.writeByte (m : Memory) (i : Nat) (v : Byte) : Memory :=
  { m with cells := insertCell m.cells i v }

/-- MemRead(addr, n) (`00_scope.md` R12). -/
def Memory.read (m : Memory) (addr n : Nat) : Bytes := (List.range n).map fun i => m.byte (addr + i)

/-- MemWrite(addr, |v|, v) (`00_scope.md` R12). -/
def Memory.write (m : Memory) (addr : Nat) : Bytes → Memory
  | [] => m
  | b :: rest => Memory.write (m.writeByte addr b) (addr + 1) rest

/-- The addresses of a list of cells rise strictly from above `low`, and lie in DMEM. -/
def cellsSortedFrom : Nat → List Host.Cell → Bool
  | _, [] => true
  | low, (a, _) :: rest => decide (low ≤ a) && decide (a < Config.dmemBytes) && cellsSortedFrom (a + 1) rest

/-- The canonical form of DMEM: written offsets strictly rising and inside DMEM (`20_memory.md` R62). An unlisted
offset has no value, so no entry can equal it. -/
def Memory.wf (m : Memory) : Bool := cellsSortedFrom 0 m.cells

/-! ### ARG registers -/

/-- ARGi (`10_state.md` R28). -/
def Args.get (r : Args) (i : Fin 8) : Word :=
  match i.val with
  | 0 => r.a0
  | 1 => r.a1
  | 2 => r.a2
  | 3 => r.a3
  | 4 => r.a4
  | 5 => r.a5
  | 6 => r.a6
  | _ => r.a7

/-- ARGi set (`10_state.md` R28). -/
def Args.set (r : Args) (i : Fin 8) (v : Word) : Args :=
  match i.val with
  | 0 => { r with a0 := v }
  | 1 => { r with a1 := v }
  | 2 => { r with a2 := v }
  | 3 => { r with a3 := v }
  | 4 => { r with a4 := v }
  | 5 => { r with a5 := v }
  | 6 => { r with a6 := v }
  | _ => { r with a7 := v }

/-! ### Issue and completion -/

/-- An accepted command word (`10_state.md` R37, the branch BUSY = 0): the last record is cleared and the operands
are taken. -/
def State.accept (s : State) (w : Word) : State :=
  { s with
    cmdLast := w
    status := { s.status with done := false, err := false, valid := false }
    errcode := 0
    resultLen := 0
    inflight := some { word := w, args := s.args, extRand := s.ctrl.extRand } }

/-- A command issue attempt, a host write of `w` to CMD (`10_state.md` R37). -/
def State.issue (s : State) (w : Word) : State :=
  if s.busy then { s with status := { s.status with cmdOverrun := true } } else s.accept w

/-- What a successful command produces: the bytes of its output region (empty for a command without one) and its
boolean (false for a command without one). -/
structure Output where
  dst : Nat
  bytes : Bytes
  valid : Bool
deriving DecidableEq, Repr

/-- How a command ends (`60_exceptions.md` R300): Ok(outLen, valid) with its MemWrite, or an error. -/
abbrev CmdResult := Except CmdError Output

/-- Ok(outLen, 0) with MemWrite(dst, outLen, bytes). -/
def okBytes (dst : Nat) (bytes : Bytes) : CmdResult := .ok { dst := dst, bytes := bytes, valid := false }

/-- Ok(0, valid), no MemWrite: the end of a verify or predicate command. -/
def okValid (v : Bool) : CmdResult := .ok { dst := 0, bytes := [], valid := v }

/-- A command's end and how many draws of the RNG it made before it (`70_reset_and_hazards.md` R348). -/
structure Completion where
  result : CmdResult
  draws : Nat

/-- A command that draws nothing. -/
def Completion.noDraw (r : CmdResult) : Completion := { result := r, draws := 0 }

/-- Successful completion (`10_state.md` R38; `60_exceptions.md` R304, left column). -/
def State.completeOk (s : State) (o : Output) : State :=
  { s with
    dmem := s.dmem.write o.dst o.bytes
    resultLen := BitVec.ofNat 32 o.bytes.length
    errcode := 0
    status := { s.status with done := true, err := false, valid := o.valid }
    inflight := none }

/-- Error completion, the one way an exception is taken (`10_state.md` R38; `60_exceptions.md` R304, right column,
R305). There is no return from it: the core is idle again (R310), and the host acknowledges by W1C
(`Status.writeOneToClear`, R309). -/
def State.completeError (s : State) (e : CmdError) : State :=
  { s with
    resultLen := 0
    errcode := e.code
    status := { s.status with done := true, err := true, valid := false }
    inflight := none }

/-- Command completion (`10_state.md` R38). The draws a command made are gone even when it ends with an error
(`60_exceptions.md` R305). -/
def State.complete (s : State) (c : Completion) : State :=
  match c.result with
  | .ok o => { s.completeOk o with rngDraws := s.rngDraws + c.draws }
  | .error e => { s.completeError e with rngDraws := s.rngDraws + c.draws }

/-- The sequencer's step for a decoded command whose rule is `run` (`10_state.md` R38): enabled exactly when a
command is in flight. -/
def State.finish (s : State) (run : InFlight → Completion) : Host.Outcome State Fault Refusal :=
  match s.inflight with
  | none => .fault .noCommandInFlight
  | some c => .next (s.complete (run c))

/-! ### The RNG -/

/-- RngBytes(c), the RNG's draw number `draw` (`70_reset_and_hazards.md` R348; log entry 2). -/
def rngBytes (draw c : Nat) : Bytes := (List.range c).map (Config.rngByte draw)

/-- RngScalar() in [1, order − 1], the RNG's draw number `draw` (`70_reset_and_hazards.md` R348; log entry 2). -/
def rngScalar (order draw : Nat) : Nat := 1 + Config.rngInteger draw % (order - 1)

/-! ### Reset -/

/-- The reset input (`70_reset_and_hazards.md` R340, R341, R343): every register is reset and an in-flight command
is discarded; DMEM is kept. The RNG, the events to come and what the host has read are outside the core. -/
def State.resetInput (s : State) : State :=
  { State.reset with dmem := s.dmem, rngDraws := s.rngDraws, readData := s.readData, turns := s.turns }

/-- A power-on reset (`70_reset_and_hazards.md` R340, R341): as `State.resetInput`, and every DMEM byte holds a new
unspecified value. -/
def State.powerOnReset (s : State) : State :=
  { s.resetInput with dmem := Memory.atPowerOn (s.dmem.powerOn + 1) }

end Sys2Proof.Machine
end

