-- ==== Sys2Proof/Machine/Operands.lean ====
section
/-! DEFINITION. Operand regions of commands and their checks (`20_memory.md` R70 to R73), and the operands as byte
strings and integers (`30_encoding.md` R96, R97). -/

namespace Sys2Proof.Machine

/-- An operand region: DMEM bytes addr .. addr + len − 1 (`20_memory.md` R71). Unbounded integers, no wrap-around. -/
structure Region where
  addr : Nat
  len : Nat
deriving DecidableEq, Repr

/-- The region named by two ARG values (`30_encoding.md` R97: unsigned, not scaled). -/
def region (addr len : Word) : Region := { addr := addr.toNat, len := len.toNat }

/-- The region named by one ARG value, with a length fixed by the command. -/
def regionOf (addr : Word) (len : Nat) : Region := { addr := addr.toNat, len := len }

/-- The region is in bounds: addr + len ≤ DMEM_BYTES (`20_memory.md` R71). -/
def Region.inBounds (r : Region) : Bool := decide (r.addr + r.len ≤ Config.dmemBytes)

/-- Every region of a list is in bounds. -/
def allInBounds (rs : List Region) : Bool := rs.all Region.inBounds

/-- The output region overlaps the input region (`20_memory.md` R72). -/
def Region.overlaps (out input : Region) : Bool :=
  decide (out.len > 0) && decide (input.len > 0) && decide (out.addr < input.addr + input.len) &&
    decide (input.addr < out.addr + out.len)

/-- The output region overlaps some input region of a list (`20_memory.md` R72). -/
def Region.overlapsAny (out : Region) (inputs : List Region) : Bool := inputs.any out.overlaps

/-- The byte string an operand region holds (`00_scope.md` R12: MemRead). -/
def Memory.fetch (m : Memory) (r : Region) : Bytes := m.read r.addr r.len

/-- The integer an operand region holds, big-endian (`20_memory.md` R74; `30_encoding.md` R96). -/
def Memory.fetchInt (m : Memory) (r : Region) : Nat := os2ip (m.fetch r)

/-- The region that only exists when X = 1 (`30_encoding.md` R95): the salt or nonce operand. -/
def whenExternal (x : Bool) (r : Region) : List Region := if x then [r] else []

end Sys2Proof.Machine
end

