-- ==== Sys2Proof/Machine/Base64UrlCodec.lean ====
section
/-! DEFINITION. Base64UrlCodec: the alphabet (`42_base64url.md` R150), encoding (R151), decoding (R153, R154) and
the commands B64U_ENCODE (R152) and B64U_DECODE (R155). -/

namespace Sys2Proof.Machine

/-- The pad byte `=` (`42_base64url.md` R150). -/
def b64Pad : Byte := 0x3D

/-- chr(v), the alphabet byte of a 6-bit value (`42_base64url.md` R150). -/
def b64Chr (v : Nat) : Byte :=
  if v < 26 then BitVec.ofNat 8 (0x41 + v)
  else if v < 52 then BitVec.ofNat 8 (0x61 + (v - 26))
  else if v < 62 then BitVec.ofNat 8 (0x30 + (v - 52))
  else if v = 62 then 0x2D
  else 0x5F

/-- val(c), the 6-bit value of an alphabet byte; none outside the alphabet (`42_base64url.md` R150). -/
def b64Val (c : Byte) : Option Nat :=
  let n := c.toNat
  if 0x41 ≤ n ∧ n ≤ 0x5A then some (n - 0x41)
  else if 0x61 ≤ n ∧ n ≤ 0x7A then some (26 + (n - 0x61))
  else if 0x30 ≤ n ∧ n ≤ 0x39 then some (52 + (n - 0x30))
  else if n = 0x2D then some 62
  else if n = 0x5F then some 63
  else none

/-- The character chr(v[6k+5 : 6k]) of a 24-bit group (`42_base64url.md` R151). -/
def b64GroupChr (v k : Nat) : Byte := b64Chr (v / 2 ^ (6 * k) % 64)

/-- Enc(X, pad), groups of three bytes (`42_base64url.md` R151). -/
def b64Encode (pad : Bool) : Bytes → Bytes
  | [] => []
  | [x] =>
    let v := os2ip ([x] ++ zeros 2)
    [b64GroupChr v 3, b64GroupChr v 2] ++ (if pad then repeatByte b64Pad 2 else [])
  | [x, y] =>
    let v := os2ip ([x, y] ++ zeros 1)
    [b64GroupChr v 3, b64GroupChr v 2, b64GroupChr v 1] ++ (if pad then repeatByte b64Pad 1 else [])
  | x :: y :: z :: rest =>
    let v := os2ip [x, y, z]
    [b64GroupChr v 3, b64GroupChr v 2, b64GroupChr v 1, b64GroupChr v 0] ++ b64Encode pad rest

/-- |Enc(X, pad)| for |X| = l (`42_base64url.md` R151, R152): 4·⌈l/3⌉ or ⌈4l/3⌉. -/
def b64EncodedLen (pad : Bool) (l : Nat) : Nat := if pad then 4 * ((l + 2) / 3) else (4 * l + 2) / 3

/-- p, the number of consecutive `=` at the end (`42_base64url.md` R153). -/
def b64TrailingPads (s : Bytes) : Nat := (s.reverse.takeWhile (· == b64Pad)).length

/-- Check 1 of `42_base64url.md` R153 over the bytes before the trailing `=`: the error of the first bad byte. -/
def b64Scan : Bytes → Option CmdError
  | [] => none
  | c :: rest =>
    if c = b64Pad then some .b64BadPad
    else match b64Val c with
      | none => some .b64BadChar
      | some _ => b64Scan rest

/-- Decode validation, the checks in order (`42_base64url.md` R153): the output length, or the error. -/
def b64Validate (s : Bytes) : Except CmdError Nat :=
  let l := s.length
  let p := b64TrailingPads s
  match b64Scan (s.take (l - p)) with
  | some e => .error e
  | none =>
    if p > 2 then .error .b64BadPad
    else if 6 * l / 8 < p then .error .b64BadPad
    else .ok (6 * l / 8 - p)

/-- A 6-bit value as bits, most significant first (`42_base64url.md` R154). -/
def sixBits (v : Nat) : List Bool := [v.testBit 5, v.testBit 4, v.testBit 3, v.testBit 2, v.testBit 1, v.testBit 0]

/-- The byte whose bits are given, the first the most significant (`42_base64url.md` R154). -/
def byteOfBits (bits : List Bool) : Byte := BitVec.ofNat 8 (bits.foldl (fun acc b => 2 * acc + b.toNat) 0)

/-- The first `n` bytes of a bit string, 8 bits a byte (`42_base64url.md` R154). -/
def bytesOfBits : (n : Nat) → List Bool → Bytes
  | 0, _ => []
  | n + 1, bits => byteOfBits (bits.take 8) :: bytesOfBits n (bits.drop 8)

/-- The bits of the characters before the trailing `=` (`42_base64url.md` R154). -/
def b64Bits (s : Bytes) : List Bool :=
  (s.take (s.length - b64TrailingPads s)).flatMap fun c => sixBits ((b64Val c).getD 0)

/-- Dec(S), for a string that passes R153 with this output length (`42_base64url.md` R154). -/
def b64Decode (s : Bytes) (outLen : Nat) : Bytes := bytesOfBits outLen (b64Bits s)

/-- The rule of B64U_ENCODE (`42_base64url.md` R152). -/
def runB64uEncode (pad : Bool) (c : InFlight) (m : Memory) : CmdResult :=
  let src := region c.args.a0 c.args.a1
  let dst := regionOf c.args.a2 (b64EncodedLen pad src.len)
  if !allInBounds [src, dst] then .error .outOfBounds
  else if dst.overlapsAny [src] then .error .overlap
  else okBytes dst.addr (b64Encode pad (m.fetch src))

/-- The rule of B64U_DECODE (`42_base64url.md` R155): the output region is checked after the text. -/
def runB64uDecode (c : InFlight) (m : Memory) : CmdResult :=
  let src := region c.args.a0 c.args.a1
  if !src.inBounds then .error .outOfBounds
  else
    let text := m.fetch src
    match b64Validate text with
    | .error e => .error e
    | .ok outLen =>
      let dst := regionOf c.args.a2 outLen
      if !dst.inBounds then .error .outOfBounds
      else if dst.overlapsAny [src] then .error .overlap
      else okBytes dst.addr (b64Decode text outLen)

/-- B64U_ENCODE (OPCODE 0x04; `42_base64url.md` R152). -/
def execB64uEncode (pad : Bool) (s : State) : Host.Outcome State Fault Refusal :=
  s.finish fun c => .noDraw (runB64uEncode pad c s.dmem)

/-- B64U_DECODE (OPCODE 0x05; `42_base64url.md` R155). -/
def execB64uDecode (s : State) : Host.Outcome State Fault Refusal :=
  s.finish fun c => .noDraw (runB64uDecode c s.dmem)

end Sys2Proof.Machine
end

