-- ==== Sys2Proof/Machine/Arith.lean ====
section
/-! DEFINITION. Modular arithmetic on unbounded integers (`00_scope.md` R8; `44_rsa_engine.md` R201). How the
values are formed is not architectural (`00_scope.md` R6, U25); these forms are ones that evaluate quickly. -/

namespace Sys2Proof.Machine

/-- The number of significant bits of an integer, 0 for 0 (`45_ec_point.md` R235). -/
def bitLength (k : Nat) : Nat := if k = 0 then 0 else Nat.log2 k + 1

/-- Square and multiply: `acc · base^x mod n`, over at most `fuel` bits of `x`, for n ≥ 1. -/
def modExpLoop (n : Nat) : (fuel acc base x : Nat) → Nat
  | 0, acc, _, _ => acc % n
  | fuel + 1, acc, base, x =>
    if x = 0 then acc % n
    else modExpLoop n fuel (if x % 2 = 1 then acc * base % n else acc) (base * base % n) (x / 2)

/-- ModExp(b, x, n) = b^x mod n, with b^0 = 1 (`44_rsa_engine.md` R201). -/
def modExp (b x n : Nat) : Nat := modExpLoop n (bitLength x) 1 b x

/-- Euclid's algorithm on (r0, r1), each remainder kept with the multiple of the first argument it is congruent to,
mod m. It ends with the greatest common divisor and its multiplier. -/
def euclidLoop (m : Nat) : (fuel r0 t0 r1 t1 : Nat) → Nat × Nat
  | 0, r0, t0, _, _ => (r0, t0)
  | fuel + 1, r0, t0, r1, t1 =>
    if r1 = 0 then (r0, t0)
    else euclidLoop m fuel r1 t1 (r0 % r1) ((t0 + r0 / r1 * (m - t1)) % m)

/-- x⁻¹ mod m: the y in [1, m−1] with x·y mod m = 1, for m ≥ 2; none iff gcd(x, m) ≠ 1 (`00_scope.md` R8). -/
def modInverse (x m : Nat) : Option Nat :=
  let g := euclidLoop m (2 * bitLength m + 2) m 0 (x % m) (1 % m)
  if g.1 = 1 then some (g.2 % m) else none

/-- An integer mod m, the least non-negative residue (`00_scope.md` R8). -/
def residue (z : Int) (m : Nat) : Nat := (z % (m : Int)).toNat

end Sys2Proof.Machine
end

