-- ==== Sys2Proof/Machine/EcPointArithmetic.lean ====
section
/-! DEFINITION. EcPointArithmetic on the curve P-256 (`45_ec_point.md` R230 to R236) and the commands EC_DOUBLE
(R237), EC_ADD (R238), EC_SCALAR_MUL (R239) and EC_ON_CURVE (R240). -/

namespace Sys2Proof.Machine

/-! ### Curve parameters and points -/

/-- The field prime q (`45_ec_point.md` R230). -/
def curveQ : Nat := 0xffffffff00000001000000000000000000000000ffffffffffffffffffffffff

/-- The coefficient a = q − 3 (`45_ec_point.md` R230). -/
def curveA : Nat := 0xffffffff00000001000000000000000000000000fffffffffffffffffffffffc

/-- The coefficient b (`45_ec_point.md` R230). -/
def curveB : Nat := 0x5ac635d8aa3a93e7b3ebbd55769886bc651d06b0cc53b0f63bce3c3e27d2604b

/-- The group order n (`45_ec_point.md` R230). -/
def curveN : Nat := 0xffffffff00000000ffffffffffffffffbce6faada7179e84f3b9cac2fc632551

/-- The x coordinate of the base point G (`45_ec_point.md` R230). -/
def curveGx : Nat := 0x6b17d1f2e12c4247f8bce6e563a440f277037d812deb33a0f4a13945d898c296

/-- The y coordinate of the base point G (`45_ec_point.md` R230). -/
def curveGy : Nat := 0x4fe342e2fe1a7f9b8ee7eb4a7c0f9e162bce33576b315ececbb6406837bf51f5

/-- A point (`45_ec_point.md` R231). -/
inductive Point where
  /-- The additive identity. -/
  | identity
  /-- The point with these coordinates. -/
  | affine (x y : Nat)
deriving DecidableEq, Repr

/-- The base point G (`45_ec_point.md` R230). -/
def curveG : Point := .affine curveGx curveGy

/-- The coordinate X or Y of a point operand T ∥ X ∥ Y: 32 bytes from an index (`45_ec_point.md` R231). -/
def pointX (op : Bytes) : Nat := os2ip (slice op 1 32)

/-- The coordinate Y of a point operand T ∥ X ∥ Y (`45_ec_point.md` R231). -/
def pointY (op : Bytes) : Nat := os2ip (slice op 33 32)

/-- The tag T of a point operand T ∥ X ∥ Y (`45_ec_point.md` R231). -/
def pointTag (op : Bytes) : Byte := op.getD 0 0

/-- DecPoint (`45_ec_point.md` R231, R232). -/
def decPoint (op : Bytes) : Except CmdError Point :=
  if pointTag op = 0x00 then .ok .identity
  else if pointTag op = 0x04 then
    if pointX op ≥ curveQ ∨ pointY op ≥ curveQ then .error .badPoint
    else .ok (.affine (pointX op) (pointY op))
  else .error .badPoint

/-- EncPoint (`45_ec_point.md` R231). -/
def encPoint : Point → Bytes
  | .identity => [0x00] ++ zeros 64
  | .affine x y => [0x04] ++ i2osp x 32 ++ i2osp y 32

/-! ### The group law -/

/-- The point on the line of slope s through (x, y) that the doubling and addition formulas end with, the other
point having the x coordinate x2 (`45_ec_point.md` R233, R234). -/
def chordPoint (s x y x2 : Nat) : Point :=
  let x' := residue ((s : Int) * s - x - x2) curveQ
  let y' := residue ((s : Int) * ((x : Int) - x') - y) curveQ
  .affine x' y'

/-- double(P) (`45_ec_point.md` R233). -/
def pointDouble : Point → Except CmdError Point
  | .identity => .ok .identity
  | .affine x y =>
    if y = 0 then .error .noInverse
    else match modInverse (2 * y) curveQ with
      | none => .error .noInverse
      | some inv => .ok (chordPoint ((3 * x ^ 2 + curveA) * inv % curveQ) x y x)

/-- add(P, Q), the cases in order (`45_ec_point.md` R234; `90_conflicts.md` C3). -/
def pointAdd : Point → Point → Except CmdError Point
  | .identity, q => .ok q
  | p, .identity => .ok p
  | .affine xp yp, .affine xq yq =>
    if xp = xq ∧ yp = residue (-(yq : Int)) curveQ then .ok .identity
    else if xp = xq ∧ yp = yq then pointDouble (.affine xp yp)
    else if xp = xq then .error .noInverse
    else match modInverse (residue ((xq : Int) - xp) curveQ) curveQ with
      | none => .error .noInverse
      | some inv => .ok (chordPoint (residue (((yq : Int) - yp) * inv) curveQ) xp yp xq)

/-- The loop of scalarMultiply over the remaining bits of k, least significant first; no doubling follows the last
bit (`45_ec_point.md` R235; `90_conflicts.md` C7). -/
def scalarLoop : (bits k : Nat) → (r a : Point) → Except CmdError Point
  | 0, _, r, _ => .ok r
  | n + 1, k, r, a => do
    let r' ← if k % 2 = 1 then pointAdd r a else .ok r
    if n = 0 then .ok r'
    else
      let a' ← pointDouble a
      scalarLoop n (k / 2) r' a'

/-- scalarMultiply(P, k) (`45_ec_point.md` R235). -/
def scalarMultiply (p : Point) (k : Nat) : Except CmdError Point := scalarLoop (bitLength k) k .identity p

/-- isOnCurve(P) (`45_ec_point.md` R236). -/
def isOnCurve : Point → Bool
  | .identity => false
  | .affine x y =>
    decide (x < curveQ) && decide (y < curveQ) &&
      (y ^ 2 % curveQ == (x ^ 3 + curveA * x + curveB) % curveQ)

/-! ### Commands -/

/-- The rule of EC_DOUBLE (`45_ec_point.md` R237). -/
def runEcDouble (c : InFlight) (m : Memory) : CmdResult :=
  let p := regionOf c.args.a0 65
  let dst := regionOf c.args.a1 65
  if !allInBounds [p, dst] then .error .outOfBounds
  else if dst.overlapsAny [p] then .error .overlap
  else match decPoint (m.fetch p) with
    | .error e => .error e
    | .ok pt =>
      match pointDouble pt with
      | .error e => .error e
      | .ok r => okBytes dst.addr (encPoint r)

/-- The rule of EC_ADD (`45_ec_point.md` R238). -/
def runEcAdd (c : InFlight) (m : Memory) : CmdResult :=
  let p := regionOf c.args.a0 65
  let q := regionOf c.args.a1 65
  let dst := regionOf c.args.a2 65
  if !allInBounds [p, q, dst] then .error .outOfBounds
  else if dst.overlapsAny [p, q] then .error .overlap
  else match decPoint (m.fetch p) with
    | .error e => .error e
    | .ok pt =>
      match decPoint (m.fetch q) with
      | .error e => .error e
      | .ok qt =>
        match pointAdd pt qt with
        | .error e => .error e
        | .ok r => okBytes dst.addr (encPoint r)

/-- The rule of EC_SCALAR_MUL (`45_ec_point.md` R239). -/
def runEcScalarMul (c : InFlight) (m : Memory) : CmdResult :=
  let p := regionOf c.args.a0 65
  let k := regionOf c.args.a1 32
  let dst := regionOf c.args.a2 65
  if !allInBounds [p, k, dst] then .error .outOfBounds
  else if dst.overlapsAny [p, k] then .error .overlap
  else match decPoint (m.fetch p) with
    | .error e => .error e
    | .ok pt =>
      match scalarMultiply pt (m.fetchInt k) with
      | .error e => .error e
      | .ok r => okBytes dst.addr (encPoint r)

/-- The rule of EC_ON_CURVE (`45_ec_point.md` R240). -/
def runEcOnCurve (c : InFlight) (m : Memory) : CmdResult :=
  let p := regionOf c.args.a0 65
  if !allInBounds [p] then .error .outOfBounds
  else
    let op := m.fetch p
    if pointTag op ≠ 0x00 ∧ pointTag op ≠ 0x04 then .error .badPoint
    else okValid (pointTag op == 0x04 && isOnCurve (.affine (pointX op) (pointY op)))

/-- EC_DOUBLE (OPCODE 0x18; `45_ec_point.md` R237). -/
def execEcDouble (s : State) : Host.Outcome State Fault Refusal :=
  s.finish fun c => .noDraw (runEcDouble c s.dmem)

/-- EC_ADD (OPCODE 0x19; `45_ec_point.md` R238). -/
def execEcAdd (s : State) : Host.Outcome State Fault Refusal :=
  s.finish fun c => .noDraw (runEcAdd c s.dmem)

/-- EC_SCALAR_MUL (OPCODE 0x1A; `45_ec_point.md` R239). -/
def execEcScalarMul (s : State) : Host.Outcome State Fault Refusal :=
  s.finish fun c => .noDraw (runEcScalarMul c s.dmem)

/-- EC_ON_CURVE (OPCODE 0x1B; `45_ec_point.md` R240). -/
def execEcOnCurve (s : State) : Host.Outcome State Fault Refusal :=
  s.finish fun c => .noDraw (runEcOnCurve c s.dmem)

end Sys2Proof.Machine
end

