-- ==== Sys2Proof/Machine/HashEngine.lean ====
section
/-! DEFINITION. HashEngine: SHA-256 (`40_sha256.md` R120 to R130) and the command SHA256 (R128). -/

namespace Sys2Proof.Machine

/-- hLen, the SHA-256 digest length in bytes (`00_scope.md` R13). -/
def hLen : Nat := 32

/-! ### Word operations (R121, R122) -/

/-- ROTR_r(x), for 0 < r < 32 (`40_sha256.md` R121). -/
def rotr (r : Nat) (x : Word) : Word := (x >>> r) ||| (x <<< (32 - r))

/-- SHR_r(x) (`40_sha256.md` R121). -/
def shr (r : Nat) (x : Word) : Word := x >>> r

/-- Ch (`40_sha256.md` R122). -/
def ch (x y z : Word) : Word := (x &&& y) ^^^ (~~~x &&& z)

/-- Maj (`40_sha256.md` R122). -/
def maj (x y z : Word) : Word := (x &&& y) ^^^ (x &&& z) ^^^ (y &&& z)

/-- Σ0 (`40_sha256.md` R122). -/
def bigSigma0 (x : Word) : Word := rotr 2 x ^^^ rotr 13 x ^^^ rotr 22 x

/-- Σ1 (`40_sha256.md` R122). -/
def bigSigma1 (x : Word) : Word := rotr 6 x ^^^ rotr 11 x ^^^ rotr 25 x

/-- σ0 (`40_sha256.md` R122). -/
def smallSigma0 (x : Word) : Word := rotr 7 x ^^^ rotr 18 x ^^^ shr 3 x

/-- σ1 (`40_sha256.md` R122). -/
def smallSigma1 (x : Word) : Word := rotr 17 x ^^^ rotr 19 x ^^^ shr 10 x

/-! ### Padding and schedule (R123, R124) -/

/-- z = (55 − L) mod 64, the number of zero bytes of the padding (`40_sha256.md` R123). -/
def shaZeroCount (l : Nat) : Nat := ((55 - (l : Int)) % 64).toNat

/-- The padded message P (`40_sha256.md` R123). -/
def shaPad (m : Bytes) : Bytes :=
  m ++ [0x80] ++ zeros (shaZeroCount m.length) ++ i2osp (8 * m.length % 2 ^ 32) 8

/-- The big-endian words W_0..W_15 of a block (`40_sha256.md` R124). -/
def blockWords (block : Bytes) : List Word :=
  (List.range 16).map fun t => BitVec.ofNat 32 (os2ip (slice block (4 * t) 4))

/-- `count` further words W_t of the schedule, on the words so far, latest first (`40_sha256.md` R124). -/
def extendSchedule : (count : Nat) → (latestFirst : List Word) → List Word
  | 0, ws => ws
  | n + 1, ws =>
    extendSchedule n
      ((smallSigma1 (ws.getD 1 0) + ws.getD 6 0 + smallSigma0 (ws.getD 14 0) + ws.getD 15 0) :: ws)

/-- The message schedule W_0..W_63 of a block (`40_sha256.md` R124). -/
def schedule (block : Bytes) : List Word := (extendSchedule 48 (blockWords block).reverse).reverse

/-! ### Constants (R125, R126) -/

/-- The eight hash words, or the working variables a..h (`40_sha256.md` R127). -/
structure HashWords where
  a : Word
  b : Word
  c : Word
  d : Word
  e : Word
  f : Word
  g : Word
  h : Word
deriving DecidableEq, Repr

/-- The initial hash words H^(0) (`40_sha256.md` R125). -/
def initialHash : HashWords where
  a := 0x6a09e667
  b := 0xbb67ae85
  c := 0x3c6ef372
  d := 0xa54ff53a
  e := 0x510e527f
  f := 0x9b05688c
  g := 0x1f83d9ab
  h := 0x5be0cd19

/-- The round constants K_0..K_63 (`40_sha256.md` R126). -/
def roundConstants : List Word :=
  [0x428a2f98, 0x71374491, 0xb5c0fbcf, 0xe9b5dba5, 0x3956c25b, 0x59f111f1, 0x923f82a4, 0xab1c5ed5] ++
  [0xd807aa98, 0x12835b01, 0x243185be, 0x550c7dc3, 0x72be5d74, 0x80deb1fe, 0x9bdc06a7, 0xc19bf174] ++
  [0xe49b69c1, 0xefbe4786, 0x0fc19dc6, 0x240ca1cc, 0x2de92c6f, 0x4a7484aa, 0x5cb0a9dc, 0x76f988da] ++
  [0x983e5152, 0xa831c66d, 0xb00327c8, 0xbf597fc7, 0xc6e00bf3, 0xd5a79147, 0x06ca6351, 0x14292967] ++
  [0x27b70a85, 0x2e1b2138, 0x4d2c6dfc, 0x53380d13, 0x650a7354, 0x766a0abb, 0x81c2c92e, 0x92722c85] ++
  [0xa2bfe8a1, 0xa81a664b, 0xc24b8b70, 0xc76c51a3, 0xd192e819, 0xd6990624, 0xf40e3585, 0x106aa070] ++
  [0x19a4c116, 0x1e376c08, 0x2748774c, 0x34b0bcb5, 0x391c0cb3, 0x4ed8aa4a, 0x5b9cca4f, 0x682e6ff3] ++
  [0x748f82ee, 0x78a5636f, 0x84c87814, 0x8cc70208, 0x90befffa, 0xa4506ceb, 0xbef9a3f7, 0xc67178f2]

/-! ### The digest function (R127) -/

/-- One round on the working variables, with K_t and W_t (`40_sha256.md` R127). -/
def shaRound (v : HashWords) (kw : Word × Word) : HashWords :=
  let t1 := v.h + bigSigma1 v.e + ch v.e v.f v.g + kw.1 + kw.2
  let t2 := bigSigma0 v.a + maj v.a v.b v.c
  { a := t1 + t2, b := v.a, c := v.b, d := v.c, e := v.d + t1, f := v.e, g := v.f, h := v.g }

/-- H_j + (a..h)_j, each mod 2^32 (`40_sha256.md` R127). -/
def HashWords.add (x y : HashWords) : HashWords :=
  { a := x.a + y.a, b := x.b + y.b, c := x.c + y.c, d := x.d + y.d
    e := x.e + y.e, f := x.f + y.f, g := x.g + y.g, h := x.h + y.h }

/-- One block: 64 rounds, added to the hash words (`40_sha256.md` R127). -/
def shaBlock (h : HashWords) (block : Bytes) : HashWords :=
  h.add ((roundConstants.zip (schedule block)).foldl shaRound h)

/-- The first `count` blocks of 64 bytes of a padded message, in order (`40_sha256.md` R124, R127). -/
def shaBlocks : (count : Nat) → HashWords → Bytes → HashWords
  | 0, h, _ => h
  | n + 1, h, p => shaBlocks n (shaBlock h (p.take 64)) (p.drop 64)

/-- The hash words as a digest, big-endian (`40_sha256.md` R127). -/
def HashWords.digest (h : HashWords) : Bytes :=
  i2osp h.a.toNat 4 ++ i2osp h.b.toNat 4 ++ i2osp h.c.toNat 4 ++ i2osp h.d.toNat 4 ++
    i2osp h.e.toNat 4 ++ i2osp h.f.toNat 4 ++ i2osp h.g.toNat 4 ++ i2osp h.h.toNat 4

/-- SHA256(M) (`40_sha256.md` R127). -/
def sha256 (m : Bytes) : Bytes :=
  let p := shaPad m
  (shaBlocks (p.length / 64) initialHash p).digest

/-! ### The command (R128, R129) -/

/-- The lowercase ASCII character of a nibble (`40_sha256.md` R129). -/
def hexChar (nibble : Nat) : Byte :=
  if nibble < 10 then BitVec.ofNat 8 (0x30 + nibble) else BitVec.ofNat 8 (0x61 + (nibble - 10))

/-- hex(D): two characters a byte, the high nibble first (`40_sha256.md` R129). -/
def hexText (d : Bytes) : Bytes := d.flatMap fun b => [hexChar (b.toNat / 16), hexChar (b.toNat % 16)]

/-- The rule of SHA256 (`40_sha256.md` R128). -/
def runSha256 (hex : Bool) (c : InFlight) (m : Memory) : CmdResult :=
  let msg := region c.args.a0 c.args.a1
  let dst := regionOf c.args.a2 (if hex then 64 else 32)
  if !allInBounds [msg, dst] then .error .outOfBounds
  else if dst.overlapsAny [msg] then .error .overlap
  else
    let d := sha256 (m.fetch msg)
    okBytes dst.addr (if hex then hexText d else d)

/-- SHA256 (OPCODE 0x01; `40_sha256.md` R128). -/
def execSha256 (hex : Bool) (s : State) : Host.Outcome State Fault Refusal :=
  s.finish fun c => .noDraw (runSha256 hex c s.dmem)

end Sys2Proof.Machine
end

