-- ==== Sys2Proof/Machine/EcdsaSignatureEngine.lean ====
section
/-! DEFINITION. EcdsaSignatureEngine: ES256 (`46_ecdsa.md` R260 to R262) and the commands ES256_SIGN (R263) and
ES256_VERIFY (R264). Here n is the group order `curveN`. -/

namespace Sys2Proof.Machine

/-- e = OS2IP(SHA256(M)) (`46_ecdsa.md` R260). -/
def messageRepresentative (msg : Bytes) : Nat := os2ip (sha256 msg)

/-- x is in [1, n − 1] (`46_ecdsa.md` R262 to R264). -/
def inScalarRange (x : Nat) : Bool := decide (1 ≤ x) && decide (x ≤ curveN - 1)

/-- One try of the signing loop with the nonce k: a signature (r, s), or none to retry (`46_ecdsa.md` R263). Three
outcomes cannot happen for k in [1, n − 1] (R263: R ≠ Identity and k⁻¹ exists; R241: no error); the model lets the
first two retry and the third end the command (log entry 8). -/
def es256Try (d e k : Nat) : Except CmdError (Option (Nat × Nat)) :=
  match scalarMultiply curveG k with
  | .error x => .error x
  | .ok .identity => .ok none
  | .ok (.affine x _) =>
    let r := x % curveN
    if r = 0 then .ok none
    else match modInverse k curveN with
      | none => .ok none
      | some kInv =>
        let s := kInv * (e + r * d) % curveN
        if s = 0 then .ok none else .ok (some (r, s))

/-- The tries that are left, `drawn` nonces having been taken; `nonce t` is the nonce of try number t (from 0). The
signature or NONCE_REJECTED, and the nonces taken in all (`46_ecdsa.md` R263; `90_conflicts.md` C4). -/
def es256Loop (d e : Nat) (nonce : Nat → Nat) : (tries drawn : Nat) → Except CmdError (Nat × Nat) × Nat
  | 0, drawn => (.error .nonceRejected, drawn)
  | t + 1, drawn =>
    match es256Try d e (nonce drawn) with
    | .error x => (.error x, drawn + 1)
    | .ok none => es256Loop d e nonce t (drawn + 1)
    | .ok (some sig) => (.ok sig, drawn + 1)

/-- The signature bytes (`46_ecdsa.md` R261). -/
def es256SignatureBytes (sig : Nat × Nat) : Bytes := i2osp sig.1 32 ++ i2osp sig.2 32

/-- What the signing loop ends with, as the end of the command (`46_ecdsa.md` R263). -/
def es256Result (dst : Region) (r : Except CmdError (Nat × Nat)) : CmdResult :=
  match r with
  | .error e => .error e
  | .ok sig => okBytes dst.addr (es256SignatureBytes sig)

/-- The rule of ES256_SIGN (`46_ecdsa.md` R263). `rng t` is the RNG's answer to the draw number t of RngScalar() from
here on (R262; `70_reset_and_hazards.md` R348). -/
def runEs256Sign (rng : Nat → Nat) (c : InFlight) (m : Memory) : Completion :=
  let dR := regionOf c.args.a0 32
  let msg := region c.args.a1 c.args.a2
  let dst := regionOf c.args.a3 64
  let kR := regionOf c.args.a4 32
  let inputs := [dR, msg] ++ whenExternal c.extRand kR
  if !allInBounds (dst :: inputs) then .noDraw (.error .outOfBounds)
  else if dst.overlapsAny inputs then .noDraw (.error .overlap)
  else
    let d := m.fetchInt dR
    if !inScalarRange d then .noDraw (.error .badKey)
    else
      let e := messageRepresentative (m.fetch msg)
      if c.extRand then
        let kx := m.fetchInt kR
        if !inScalarRange kx then .noDraw (.error .badNonce)
        else .noDraw (es256Result dst (es256Loop d e (fun _ => kx) 1 0).1)
      else
        let r := es256Loop d e rng Config.ecdsaMaxTries 0
        { result := es256Result dst r.1, draws := r.2 }

/-- The last lines of ES256_VERIFY, for r and s in range and Q on the curve: the signature verifies. An inverse of s
mod n exists (`46_ecdsa.md` R264), so the branch without one cannot be taken (log entry 8). -/
def es256Accepts (q : Point) (msg : Bytes) (r s : Nat) : Except CmdError Bool :=
  match modInverse s curveN with
  | none => .ok false
  | some c => do
    let e := messageRepresentative msg
    let u1 := e * c % curveN
    let u2 := r * c % curveN
    let p1 ← scalarMultiply curveG u1
    let p2 ← scalarMultiply q u2
    let p ← pointAdd p1 p2
    match p with
    | .identity => .ok false
    | .affine x _ => .ok (x % curveN == r)

/-- The rule of ES256_VERIFY (`46_ecdsa.md` R264). -/
def runEs256Verify (c : InFlight) (m : Memory) : CmdResult :=
  let qR := regionOf c.args.a0 65
  let msg := region c.args.a1 c.args.a2
  let sig := region c.args.a3 c.args.a4
  if !allInBounds [qR, msg, sig] then .error .outOfBounds
  else if sig.len ≠ 64 then .error .sigLength
  else
    let op := m.fetch qR
    if pointTag op ≠ 0x00 ∧ pointTag op ≠ 0x04 then .error .badPoint
    else
      let r := os2ip (slice (m.fetch sig) 0 32)
      let s := os2ip (slice (m.fetch sig) 32 32)
      let q := Point.affine (pointX op) (pointY op)
      if !inScalarRange r || !inScalarRange s then okValid false
      else if pointTag op = 0x00 || !isOnCurve q then okValid false
      else match es256Accepts q (m.fetch msg) r s with
        | .error e => .error e
        | .ok v => okValid v

/-- ES256_SIGN (OPCODE 0x1C; `46_ecdsa.md` R263). -/
def execEs256Sign (s : State) : Host.Outcome State Fault Refusal :=
  s.finish fun c => runEs256Sign (fun t => rngScalar curveN (s.rngDraws + t)) c s.dmem

/-- ES256_VERIFY (OPCODE 0x1D; `46_ecdsa.md` R264). -/
def execEs256Verify (s : State) : Host.Outcome State Fault Refusal :=
  s.finish fun c => .noDraw (runEs256Verify c s.dmem)

end Sys2Proof.Machine
end

