-- ==== Sys2Proof/Machine/HmacEngine.lean ====
section
/-! DEFINITION. HmacEngine: HMAC-SHA-256 (`41_hmac.md` R140) and the commands HMAC_SHA256 (R141) and HMAC_VERIFY
(R142). -/

namespace Sys2Proof.Machine

/-- K', the key hashed down if it is longer than a block, then zero-padded to the block size (`41_hmac.md` R140). -/
def hmacKey (k : Bytes) : Bytes :=
  let k0 := if k.length > 64 then sha256 k else k
  k0 ++ zeros (64 - k0.length)

/-- HMAC(K, M) (`41_hmac.md` R140). -/
def hmac (k m : Bytes) : Bytes :=
  sha256 (xorBytes (hmacKey k) (repeatByte 0x5c 64) ++
    sha256 (xorBytes (hmacKey k) (repeatByte 0x36 64) ++ m))

/-- The rule of HMAC_SHA256 (`41_hmac.md` R141). -/
def runHmacSha256 (c : InFlight) (m : Memory) : CmdResult :=
  let key := region c.args.a0 c.args.a1
  let msg := region c.args.a2 c.args.a3
  let dst := regionOf c.args.a4 32
  if !allInBounds [key, msg, dst] then .error .outOfBounds
  else if dst.overlapsAny [key, msg] then .error .overlap
  else okBytes dst.addr (hmac (m.fetch key) (m.fetch msg))

/-- The rule of HMAC_VERIFY (`41_hmac.md` R142). -/
def runHmacVerify (c : InFlight) (m : Memory) : CmdResult :=
  let key := region c.args.a0 c.args.a1
  let msg := region c.args.a2 c.args.a3
  let tag := region c.args.a4 c.args.a5
  if !allInBounds [key, msg, tag] then .error .outOfBounds
  else okValid (tag.len == 32 && bytesEqual (hmac (m.fetch key) (m.fetch msg)) (m.fetch tag))

/-- HMAC_SHA256 (OPCODE 0x02; `41_hmac.md` R141). -/
def execHmacSha256 (s : State) : Host.Outcome State Fault Refusal :=
  s.finish fun c => .noDraw (runHmacSha256 c s.dmem)

/-- HMAC_VERIFY (OPCODE 0x03; `41_hmac.md` R142). -/
def execHmacVerify (s : State) : Host.Outcome State Fault Refusal :=
  s.finish fun c => .noDraw (runHmacVerify c s.dmem)

end Sys2Proof.Machine
end

