-- ==== Sys2Proof/Machine/RsaPadding.lean ====
section
/-! DEFINITION. RsaPadding: EMSA-PKCS1-v1_5 (`43_rsa_padding.md` R170, R171), MGF1 (R173), EMSA-PSS (R175, R177)
and the commands EMSA_PKCS1_ENCODE (R172), MGF1 (R174), EMSA_PSS_ENCODE (R176) and EMSA_PSS_VERIFY (R178). -/

namespace Sys2Proof.Machine

/-! ### EMSA-PKCS1-v1_5 -/

/-- PFX, the DER prefix of the DigestInfo (`43_rsa_padding.md` R170). -/
def digestInfoPrefix : Bytes :=
  [0x30, 0x31, 0x30, 0x0D, 0x06, 0x09, 0x60, 0x86, 0x48, 0x01, 0x65, 0x03, 0x04, 0x02, 0x01, 0x05, 0x00, 0x04, 0x20]

/-- DigestInfo(D) (`43_rsa_padding.md` R170). -/
def digestInfo (d : Bytes) : Bytes := digestInfoPrefix ++ d

/-- EncPKCS1(D, emLen), for a 32-byte D (`43_rsa_padding.md` R171). -/
def encPkcs1 (d : Bytes) (emLen : Nat) : Except CmdError Bytes :=
  if emLen < 51 + 11 then .error .encTooShort
  else .ok ([0x00, 0x01] ++ repeatByte 0xFF (emLen - 54) ++ [0x00] ++ digestInfo d)

/-- The rule of EMSA_PKCS1_ENCODE (`43_rsa_padding.md` R172). -/
def runEmsaPkcs1Encode (c : InFlight) (m : Memory) : CmdResult :=
  let digest := regionOf c.args.a0 32
  let dst := region c.args.a2 c.args.a1
  if !allInBounds [digest, dst] then .error .outOfBounds
  else if dst.overlapsAny [digest] then .error .overlap
  else match encPkcs1 (m.fetch digest) dst.len with
    | .error e => .error e
    | .ok em => okBytes dst.addr em

/-! ### MGF1 -/

/-- MGF1(seed, maskLen) where maskLen ≤ 2^32·hLen (`43_rsa_padding.md` R173). -/
def mgf1 (seed : Bytes) (maskLen : Nat) : Bytes :=
  ((List.range ((maskLen + 31) / 32)).flatMap fun i => sha256 (seed ++ i2osp i 4)).take maskLen

/-- The rule of MGF1 (`43_rsa_padding.md` R174). No ARG value reaches MASK_TOO_LONG (R173). -/
def runMgf1 (c : InFlight) (m : Memory) : CmdResult :=
  let seed := region c.args.a0 c.args.a1
  let dst := region c.args.a3 c.args.a2
  if dst.len > 2 ^ 37 then .error .maskTooLong
  else if !allInBounds [seed, dst] then .error .outOfBounds
  else if dst.overlapsAny [seed] then .error .overlap
  else okBytes dst.addr (mgf1 (m.fetch seed) dst.len)

/-! ### EMSA-PSS -/

/-- emLen = ⌈modBits / 8⌉ (`43_rsa_padding.md` R175). -/
def pssEmLen (modBits : Nat) : Nat := (modBits + 7) / 8

/-- t = 8·emLen − modBits (`43_rsa_padding.md` R175). -/
def pssClearedBits (modBits : Nat) : Nat := 8 * pssEmLen modBits - modBits

/-- The string with the top t bits of its first byte cleared: X[0] AND (0xFF >> t) (`43_rsa_padding.md` R175). -/
def clearTopBits (t : Nat) : Bytes → Bytes
  | [] => []
  | b :: rest => (b &&& ((0xFF : Byte) >>> t)) :: rest

/-- The digest of M' = zeros(8) ∥ mHash ∥ salt (`43_rsa_padding.md` R175). -/
def pssDigest (m salt : Bytes) : Bytes := sha256 (zeros 8 ++ sha256 m ++ salt)

/-- EncPSS(M, sLen, modBits, salt) (`43_rsa_padding.md` R175). -/
def encPss (m : Bytes) (sLen modBits : Nat) (salt : Bytes) : Except CmdError Bytes :=
  let emLen := pssEmLen modBits
  if emLen < hLen + sLen + 2 then .error .encError
  else
    let h := pssDigest m salt
    let db := zeros (emLen - sLen - hLen - 2) ++ [0x01] ++ salt
    let maskedDB := clearTopBits (pssClearedBits modBits) (xorBytes db (mgf1 h (emLen - hLen - 1)))
    .ok (maskedDB ++ h ++ [0xBC])

/-- VerPSS(M, EM, sLen, modBits), the checks 1 to 8 in order (`43_rsa_padding.md` R177; `90_conflicts.md` C2). -/
def verPss (m em : Bytes) (sLen modBits : Nat) : Bool :=
  let emLen := pssEmLen modBits
  let t := pssClearedBits modBits
  if em.length ≠ emLen then false
  else if emLen < hLen + sLen + 2 then false
  else if em.getD (emLen - 1) 0 ≠ 0xBC then false
  else
    let maskedDB := slice em 0 (emLen - hLen - 1)
    let h := slice em (emLen - hLen - 1) hLen
    if maskedDB.getD 0 0 >>> (8 - t) ≠ 0 then false
    else
      let db := clearTopBits t (xorBytes maskedDB (mgf1 h (emLen - hLen - 1)))
      if slice db 0 (emLen - hLen - sLen - 2) ≠ zeros (emLen - hLen - sLen - 2) then false
      else if db.getD (emLen - hLen - sLen - 2) 0 ≠ 0x01 then false
      else bytesEqual (pssDigest m (db.drop (db.length - sLen))) h

/-- The rule of EMSA_PSS_ENCODE (`43_rsa_padding.md` R176). `rng c` is the RNG's answer to RngBytes(c); it is drawn
only after every check has passed (`70_reset_and_hazards.md` R348). -/
def runEmsaPssEncode (rng : Nat → Bytes) (c : InFlight) (m : Memory) : Completion :=
  let msg := region c.args.a0 c.args.a1
  let sLen := c.args.a2.toNat
  let modBits := c.args.a3.toNat
  let dst := regionOf c.args.a4 (pssEmLen modBits)
  let salt := regionOf c.args.a5 sLen
  let inputs := msg :: whenExternal c.extRand salt
  if !allInBounds (dst :: inputs) then .noDraw (.error .outOfBounds)
  else if dst.overlapsAny inputs then .noDraw (.error .overlap)
  else if dst.len < 32 + sLen + 2 then .noDraw (.error .encError)
  else
    let saltBytes := if c.extRand then m.fetch salt else rng sLen
    { result :=
        match encPss (m.fetch msg) sLen modBits saltBytes with
        | .error e => .error e
        | .ok em => okBytes dst.addr em
      draws := if c.extRand then 0 else 1 }

/-- The rule of EMSA_PSS_VERIFY (`43_rsa_padding.md` R178). -/
def runEmsaPssVerify (c : InFlight) (m : Memory) : CmdResult :=
  let msg := region c.args.a0 c.args.a1
  let em := region c.args.a4 c.args.a5
  if !allInBounds [msg, em] then .error .outOfBounds
  else okValid (verPss (m.fetch msg) (m.fetch em) c.args.a2.toNat c.args.a3.toNat)

/-! ### Commands -/

/-- EMSA_PKCS1_ENCODE (OPCODE 0x08; `43_rsa_padding.md` R172). -/
def execEmsaPkcs1Encode (s : State) : Host.Outcome State Fault Refusal :=
  s.finish fun c => .noDraw (runEmsaPkcs1Encode c s.dmem)

/-- MGF1 (OPCODE 0x09; `43_rsa_padding.md` R174). -/
def execMgf1 (s : State) : Host.Outcome State Fault Refusal :=
  s.finish fun c => .noDraw (runMgf1 c s.dmem)

/-- EMSA_PSS_ENCODE (OPCODE 0x0A; `43_rsa_padding.md` R176). -/
def execEmsaPssEncode (s : State) : Host.Outcome State Fault Refusal :=
  s.finish fun c => runEmsaPssEncode (rngBytes s.rngDraws) c s.dmem

/-- EMSA_PSS_VERIFY (OPCODE 0x0B; `43_rsa_padding.md` R178). -/
def execEmsaPssVerify (s : State) : Host.Outcome State Fault Refusal :=
  s.finish fun c => .noDraw (runEmsaPssVerify c s.dmem)

end Sys2Proof.Machine
end

