-- ==== Sys2Proof/Machine/RsaSignatureEngine.lean ====
section
/-! DEFINITION. RsaSignatureEngine: key checks (`44_rsa_engine.md` R200), RSASP1 and RSAVP1 (R202, R203) and the
commands I2OSP (R204), RSASP1 (R205), RSAVP1 (R206), RS256_SIGN (R207), RS256_VERIFY (R208), PS256_SIGN (R210) and
PS256_VERIFY (R211). Here n is the RSA modulus. -/

namespace Sys2Proof.Machine

/-- Key check 1 of `44_rsa_engine.md` R200, on ARG0. -/
def bitLengthOk (b : Nat) : Bool := b % 8 == 0 && decide (8 ≤ b) && decide (b ≤ Config.rsaMaxBits)

/-- RSASP1(n, d, m) (`44_rsa_engine.md` R202). -/
def rsasp1 (n d m : Nat) : Except CmdError Nat :=
  if m ≥ n then .error .repOutOfRange else .ok (modExp m d n)

/-- RSAVP1(n, e, s) (`44_rsa_engine.md` R203). -/
def rsavp1 (n e s : Nat) : Except CmdError Nat :=
  if s ≥ n then .error .repOutOfRange else .ok (modExp s e n)

/-- The rule of I2OSP (`44_rsa_engine.md` R204). -/
def runI2osp (c : InFlight) (m : Memory) : CmdResult :=
  let src := region c.args.a0 c.args.a1
  let dst := region c.args.a3 c.args.a2
  if !allInBounds [src, dst] then .error .outOfBounds
  else if dst.overlapsAny [src] then .error .overlap
  else
    let x := m.fetchInt src
    if x ≥ 256 ^ dst.len then .error .intTooLarge
    else okBytes dst.addr (i2osp x dst.len)

/-- The rule R205 of `44_rsa_engine.md` for a primitive on (n, exponent, representative); R206 is the same rule with
the other primitive. -/
def runRsaPrimitive (primitive : Nat → Nat → Nat → Except CmdError Nat) (c : InFlight) (m : Memory) : CmdResult :=
  if !bitLengthOk c.args.a0.toNat then .error .badKey
  else
    let kLen := c.args.a0.toNat / 8
    let n := regionOf c.args.a1 kLen
    let x := regionOf c.args.a2 kLen
    let rep := regionOf c.args.a3 kLen
    let dst := regionOf c.args.a4 kLen
    if !allInBounds [n, x, rep, dst] then .error .outOfBounds
    else if dst.overlapsAny [n, x, rep] then .error .overlap
    else if m.fetchInt n = 0 then .error .badKey
    else match primitive (m.fetchInt n) (m.fetchInt x) (m.fetchInt rep) with
      | .error e => .error e
      | .ok y => okBytes dst.addr (i2osp y kLen)

/-- The rule of RSASP1 (`44_rsa_engine.md` R205). -/
def runRsasp1 (c : InFlight) (m : Memory) : CmdResult := runRsaPrimitive rsasp1 c m

/-- The rule of RSAVP1 (`44_rsa_engine.md` R206). -/
def runRsavp1 (c : InFlight) (m : Memory) : CmdResult := runRsaPrimitive rsavp1 c m

/-! ### RS256 -/

/-- EM of RS256: EncPKCS1(SHA256(M), kLen) (`44_rsa_engine.md` R207, R208). -/
def rs256Encode (msg : Bytes) (kLen : Nat) : Except CmdError Bytes := encPkcs1 (sha256 msg) kLen

/-- The rule of RS256_SIGN (`44_rsa_engine.md` R207). -/
def runRs256Sign (c : InFlight) (m : Memory) : CmdResult :=
  if !bitLengthOk c.args.a0.toNat then .error .badKey
  else
    let kLen := c.args.a0.toNat / 8
    let n := regionOf c.args.a1 kLen
    let d := regionOf c.args.a2 kLen
    let msg := region c.args.a3 c.args.a4
    let dst := regionOf c.args.a5 kLen
    if !allInBounds [n, d, msg, dst] then .error .outOfBounds
    else if dst.overlapsAny [n, d, msg] then .error .overlap
    else if m.fetchInt n = 0 then .error .badKey
    else match rs256Encode (m.fetch msg) kLen with
      | .error e => .error e
      | .ok em =>
        match rsasp1 (m.fetchInt n) (m.fetchInt d) (os2ip em) with
        | .error e => .error e
        | .ok y => okBytes dst.addr (i2osp y kLen)

/-- The rule of RS256_VERIFY (`44_rsa_engine.md` R208). -/
def runRs256Verify (c : InFlight) (m : Memory) : CmdResult :=
  if !bitLengthOk c.args.a0.toNat then .error .badKey
  else
    let kLen := c.args.a0.toNat / 8
    let n := regionOf c.args.a1 kLen
    let e := regionOf c.args.a2 kLen
    let msg := region c.args.a3 c.args.a4
    let sig := region c.args.a5 c.args.a6
    if !allInBounds [n, e, msg, sig] then .error .outOfBounds
    else if m.fetchInt n = 0 then .error .badKey
    else if sig.len ≠ kLen then .error .sigLength
    else match rs256Encode (m.fetch msg) kLen with
      | .error x => .error x
      | .ok em =>
        match rsavp1 (m.fetchInt n) (m.fetchInt e) (m.fetchInt sig) with
        | .error x => .error x
        | .ok y => okValid (bytesEqual em (i2osp y kLen))

/-! ### PS256 -/

/-- The salt length of PS256 (`44_rsa_engine.md` R209). -/
def ps256SaltLen : Nat := 32

/-- The rule of PS256_SIGN (`44_rsa_engine.md` R210). `rng c` is the RNG's answer to RngBytes(c); it is drawn after
the ENC_ERROR check, before REP_OUT_OF_RANGE can be known (`70_reset_and_hazards.md` R348). -/
def runPs256Sign (rng : Nat → Bytes) (c : InFlight) (m : Memory) : Completion :=
  if !bitLengthOk c.args.a0.toNat then .noDraw (.error .badKey)
  else
    let kLen := c.args.a0.toNat / 8
    let n := regionOf c.args.a1 kLen
    let d := regionOf c.args.a2 kLen
    let msg := region c.args.a3 c.args.a4
    let dst := regionOf c.args.a5 kLen
    let salt := regionOf c.args.a6 ps256SaltLen
    let inputs := [n, d, msg] ++ whenExternal c.extRand salt
    if !allInBounds (dst :: inputs) then .noDraw (.error .outOfBounds)
    else if dst.overlapsAny inputs then .noDraw (.error .overlap)
    else if m.fetchInt n = 0 then .noDraw (.error .badKey)
    else if kLen < hLen + ps256SaltLen + 2 then .noDraw (.error .encError)
    else
      let saltBytes := if c.extRand then m.fetch salt else rng ps256SaltLen
      { result :=
          match encPss (m.fetch msg) ps256SaltLen (c.args.a0.toNat - 1) saltBytes with
          | .error e => .error e
          | .ok em =>
            match rsasp1 (m.fetchInt n) (m.fetchInt d) (os2ip em) with
            | .error e => .error e
            | .ok y => okBytes dst.addr (i2osp y kLen)
        draws := if c.extRand then 0 else 1 }

/-- The rule of PS256_VERIFY (`44_rsa_engine.md` R211). -/
def runPs256Verify (c : InFlight) (m : Memory) : CmdResult :=
  if !bitLengthOk c.args.a0.toNat then .error .badKey
  else
    let kLen := c.args.a0.toNat / 8
    let n := regionOf c.args.a1 kLen
    let e := regionOf c.args.a2 kLen
    let msg := region c.args.a3 c.args.a4
    let sig := region c.args.a5 c.args.a6
    if !allInBounds [n, e, msg, sig] then .error .outOfBounds
    else if m.fetchInt n = 0 then .error .badKey
    else if sig.len ≠ kLen then .error .sigLength
    else match rsavp1 (m.fetchInt n) (m.fetchInt e) (m.fetchInt sig) with
      | .error x => .error x
      | .ok y => okValid (verPss (m.fetch msg) (i2osp y kLen) ps256SaltLen (c.args.a0.toNat - 1))

/-! ### Commands -/

/-- I2OSP (OPCODE 0x10; `44_rsa_engine.md` R204). -/
def execI2osp (s : State) : Host.Outcome State Fault Refusal :=
  s.finish fun c => .noDraw (runI2osp c s.dmem)

/-- RSASP1 (OPCODE 0x11; `44_rsa_engine.md` R205). -/
def execRsasp1 (s : State) : Host.Outcome State Fault Refusal :=
  s.finish fun c => .noDraw (runRsasp1 c s.dmem)

/-- RSAVP1 (OPCODE 0x12; `44_rsa_engine.md` R206). -/
def execRsavp1 (s : State) : Host.Outcome State Fault Refusal :=
  s.finish fun c => .noDraw (runRsavp1 c s.dmem)

/-- RS256_SIGN (OPCODE 0x13; `44_rsa_engine.md` R207). -/
def execRs256Sign (s : State) : Host.Outcome State Fault Refusal :=
  s.finish fun c => .noDraw (runRs256Sign c s.dmem)

/-- RS256_VERIFY (OPCODE 0x14; `44_rsa_engine.md` R208). -/
def execRs256Verify (s : State) : Host.Outcome State Fault Refusal :=
  s.finish fun c => .noDraw (runRs256Verify c s.dmem)

/-- PS256_SIGN (OPCODE 0x15; `44_rsa_engine.md` R210). -/
def execPs256Sign (s : State) : Host.Outcome State Fault Refusal :=
  s.finish fun c => runPs256Sign (rngBytes s.rngDraws) c s.dmem

/-- PS256_VERIFY (OPCODE 0x16; `44_rsa_engine.md` R211). -/
def execPs256Verify (s : State) : Host.Outcome State Fault Refusal :=
  s.finish fun c => .noDraw (runPs256Verify c s.dmem)

end Sys2Proof.Machine
end

