-- ==== Sys2Proof/Machine/Dispatch.lean ====
section
/-! DEFINITION. The meaning of each command: its rule, named in the table of `30_encoding.md` R94, as the completion
of the command in flight (`10_state.md` R38). -/

namespace Sys2Proof.Machine

def exec (i : Instr) (s : State) : Host.Outcome State Fault Refusal :=
  match i with
  | .sha256 hex => Sys2Proof.Machine.execSha256 hex s
  | .hmacSha256 => Sys2Proof.Machine.execHmacSha256 s
  | .hmacVerify => Sys2Proof.Machine.execHmacVerify s
  | .b64uEncode pad => Sys2Proof.Machine.execB64uEncode pad s
  | .b64uDecode => Sys2Proof.Machine.execB64uDecode s
  | .emsaPkcs1Encode => Sys2Proof.Machine.execEmsaPkcs1Encode s
  | .mgf1 => Sys2Proof.Machine.execMgf1 s
  | .emsaPssEncode => Sys2Proof.Machine.execEmsaPssEncode s
  | .emsaPssVerify => Sys2Proof.Machine.execEmsaPssVerify s
  | .i2osp => Sys2Proof.Machine.execI2osp s
  | .rsasp1 => Sys2Proof.Machine.execRsasp1 s
  | .rsavp1 => Sys2Proof.Machine.execRsavp1 s
  | .rs256Sign => Sys2Proof.Machine.execRs256Sign s
  | .rs256Verify => Sys2Proof.Machine.execRs256Verify s
  | .ps256Sign => Sys2Proof.Machine.execPs256Sign s
  | .ps256Verify => Sys2Proof.Machine.execPs256Verify s
  | .ecDouble => Sys2Proof.Machine.execEcDouble s
  | .ecAdd => Sys2Proof.Machine.execEcAdd s
  | .ecScalarMul => Sys2Proof.Machine.execEcScalarMul s
  | .ecOnCurve => Sys2Proof.Machine.execEcOnCurve s
  | .es256Sign => Sys2Proof.Machine.execEs256Sign s
  | .es256Verify => Sys2Proof.Machine.execEs256Verify s

end Sys2Proof.Machine
end

