-- ==== Sys2Proof/Machine/HostPort.lean ====
section
/-! DEFINITION. The host's port: one read or write of the core's bus window (`20_memory.md` R60 to R69; register map
`10_state.md` R21 to R30). -/

namespace Sys2Proof.Machine

/-- ID reads 0x4A575443 (`10_state.md` R22). -/
def idWord : Word := 0x4A575443

/-- VERSION reads 0x00010000 (`10_state.md` R22). -/
def versionWord : Word := 0x00010000

/-- The window offset a bus address names, if it lies in the core's window (`20_memory.md` R60; log entry 3). -/
def windowOffset (busAddress : Nat) : Option Offset :=
  if Config.coreBase ≤ busAddress ∧ busAddress < Config.coreBase + Config.windowBytes then
    some (BitVec.ofNat 17 (busAddress - Config.coreBase))
  else none

/-- A place in the window (`20_memory.md` R61). -/
inductive Place where
  /-- A register offset, 0x000 to 0xFFF. -/
  | register (offset : Nat)
  /-- A DMEM offset. -/
  | dmem (offset : Nat)
  | unmapped
deriving DecidableEq, Repr

/-- The window map (`20_memory.md` R61). -/
def placeOf (o : Offset) : Place :=
  if o.toNat < 0x1000 then .register o.toNat
  else if o.toNat < 0x10000 then .unmapped
  else if o.toNat < 0x10000 + Config.dmemBytes then .dmem (o.toNat - 0x10000)
  else .unmapped

/-- The size of an access in bytes (`20_memory.md` R63). -/
def AccessSize.bytes : AccessSize → Nat
  | .byte => 1
  | .half => 2
  | .word => 4

/-- A register of the map `10_state.md` R21. -/
inductive Reg where
  | id
  | version
  | ctrl
  | status
  | cmd
  | errcode
  | resultLen
  | arg (i : Fin 8)
  | unimplemented
deriving DecidableEq, Repr

/-- The register at an aligned offset of the register window (`10_state.md` R21, R29). -/
def regAt (offset : Nat) : Reg :=
  if offset = 0x000 then .id
  else if offset = 0x004 then .version
  else if offset = 0x008 then .ctrl
  else if offset = 0x00C then .status
  else if offset = 0x010 then .cmd
  else if offset = 0x014 then .errcode
  else if offset = 0x018 then .resultLen
  else if h : 0x020 ≤ offset ∧ offset < 0x040 then .arg ⟨(offset - 0x020) / 4, by omega⟩
  else .unimplemented

/-- The 32-bit value a performed read of a register returns (`10_state.md` R21 to R29). -/
def State.readReg (s : State) : Reg → Word
  | .id => idWord
  | .version => versionWord
  | .ctrl => s.ctrl.toWord
  | .status => s.statusWord
  | .cmd => s.cmdLast
  | .errcode => s.errcode
  | .resultLen => s.resultLen
  | .arg i => s.args.get i
  | .unimplemented => 0

/-- A dropped access: STATUS.ACCESS_ERR is set (`20_memory.md` R64 to R67). -/
def State.dropAccess (s : State) : State := { s with status := { s.status with accessErr := true } }

/-- A performed write of a register (`10_state.md` R23 to R30, R37; an ARG write while BUSY = 1 is dropped,
`20_memory.md` R66). -/
def State.writeReg (s : State) (r : Reg) (w : Word) : State :=
  match r with
  | .id => s
  | .version => s
  | .ctrl => { s with ctrl := Ctrl.ofWord w }
  | .status => { s with status := s.status.writeOneToClear w }
  | .cmd => s.issue w
  | .errcode => s
  | .resultLen => s
  | .arg i => if s.busy then s.dropAccess else { s with args := s.args.set i w }
  | .unimplemented => s

/-- The value of `n` DMEM bytes on the bus, little-endian lanes (`20_memory.md` R68). -/
def lanesToWord (b : Bytes) : Word := BitVec.ofNat 32 (b.foldr (fun x acc => x.toNat + 256 * acc) 0)

/-- The `n` low bytes of a bus value, little-endian lanes (`20_memory.md` R68). -/
def wordToLanes (w : Word) (n : Nat) : Bytes :=
  (List.range n).map fun i => BitVec.ofNat 8 (w.toNat / 256 ^ i)

/-- A register access is performed: four bytes, aligned (`20_memory.md` R64). -/
def registerAccessOk (size : AccessSize) (offset : Nat) : Bool := size.bytes == 4 && offset % 4 == 0

/-- A DMEM access is performed: aligned, and BUSY = 0 (`20_memory.md` R65, R67). -/
def State.dmemAccessOk (s : State) (size : AccessSize) (offset : Nat) : Bool :=
  offset % size.bytes == 0 && !s.busy

/-- The value a host read returns and the state it leaves (`20_memory.md` R64 to R69): a dropped read returns 0 and
sets ACCESS_ERR, a read of an unmapped offset returns 0. -/
def State.hostRead (s : State) (size : AccessSize) (o : Offset) : Word × State :=
  match placeOf o with
  | .register r => if registerAccessOk size r then (s.readReg (regAt r), s) else (0, s.dropAccess)
  | .dmem d => if s.dmemAccessOk size d then (lanesToWord (s.dmem.read d size.bytes), s) else (0, s.dropAccess)
  | .unmapped => (0, s)

/-- A host write (`20_memory.md` R64 to R69): a dropped write sets ACCESS_ERR, a write to an unmapped offset is
ignored. -/
def State.hostWrite (s : State) (size : AccessSize) (o : Offset) (v : Word) : State :=
  match placeOf o with
  | .register r => if registerAccessOk size r then s.writeReg (regAt r) v else s.dropAccess
  | .dmem d =>
    if s.dmemAccessOk size d then { s with dmem := s.dmem.write d (wordToLanes v size.bytes) } else s.dropAccess
  | .unmapped => s

/-- One host access (`20_memory.md` R63); `readData` keeps what a read returned (log entry 5). -/
def State.hostAccess (s : State) : HostAccess → State
  | .read size o => { (s.hostRead size o).2 with readData := (s.hostRead size o).1 }
  | .write size o v => s.hostWrite size o v

end Sys2Proof.Machine
end

