-- ==== Sys2Proof/Machine/Sequencer.lean ====
section
/-! DEFINITION. The sequencer's step (`10_state.md` R38) and the order of events (`20_memory.md` R76). -/

namespace Sys2Proof.Machine

/-- The sequencer's step on the in-flight command word (`10_state.md` R38; `30_encoding.md` R98): the command it
spells, or ILLEGAL_CMD. -/
def sequencerStep (c : InFlight) (s : State) : Host.Outcome State Fault Refusal :=
  match decode c.word with
  | .ok i => exec i s
  | .error _ => .next (s.complete (.noDraw (.error .illegalCmd)))

/-- The sequencer's turn: its step is enabled exactly when a command is in flight (`10_state.md` R38); the idle core
does nothing (`60_exceptions.md` R317). -/
def sequencerTurn (s : State) : Host.Outcome State Fault Refusal :=
  match s.inflight with
  | some c => sequencerStep c s
  | none => .next s

/-- One event of the total order (`20_memory.md` R76; log entry 4). -/
def takeTurn (t : Turn) (s : State) : Host.Outcome State Fault Refusal :=
  match t with
  | .host a => .next (s.hostAccess a)
  | .completion => sequencerTurn s
  | .resetInput => .next s.resetInput
  | .powerOn => .next s.powerOnReset

/-- The next event: the oldest one still to come, and when none is left, the sequencer's turn (the progress of
`70_reset_and_hazards.md` R352). -/
def nextEvent (s : State) : Host.Outcome State Fault Refusal :=
  match s.turns with
  | [] => sequencerTurn s
  | t :: rest => takeTurn t { s with turns := rest }

/-- The turns with the sequencer's turn next: nothing is put before them where the sequencer moves next anyway. -/
def sequencerFirst : List Turn → List Turn
  | [] => []
  | .completion :: rest => .completion :: rest
  | t :: rest => .completion :: t :: rest

/-- The state with a command word accepted (`10_state.md` R37) whose completion is the next event. -/
def State.withCommand (s : State) (w : Word) : State :=
  { s.accept w with turns := sequencerFirst s.turns }

end Sys2Proof.Machine
end

