-- ==== Sys2Proof/Machine/Step.lean ====
section
/-! DEFINITION. One step of the machine: one event of the total order of `20_memory.md` R76. -/

namespace Sys2Proof.Machine

/-- One step: the next event. -/
def step (s : State) : Host.Outcome State Fault Refusal := nextEvent s

/-- The state in which the very next step runs the command whose word has the bits `w`: the core fetches nothing
(`10_state.md` R31), so the word is accepted as a CMD write of it would be (R37) and the sequencer's turn is next
(log entry 6). -/
def State.withFetchWord (s : State) (nbits w : Nat) : State := s.withCommand (BitVec.ofNat 32 (w % 2 ^ nbits))

end Sys2Proof.Machine
end

