-- ==== Sys2Proof/Safety.lean ====
section
/-! DEFINITION. What the spec says holds of the core in every run: the facts each event keeps. -/

namespace Sys2Proof.Machine

/-- The command is one of the six that report a boolean (`10_state.md` R32; the VALID column of `30_encoding.md`
R95). -/
def reportsValid : Instr → Bool
  | .sha256 _ => false
  | .hmacSha256 => false
  | .hmacVerify => true
  | .b64uEncode _ => false
  | .b64uDecode => false
  | .emsaPkcs1Encode => false
  | .mgf1 => false
  | .emsaPssEncode => false
  | .emsaPssVerify => true
  | .i2osp => false
  | .rsasp1 => false
  | .rsavp1 => false
  | .rs256Sign => false
  | .rs256Verify => true
  | .ps256Sign => false
  | .ps256Verify => true
  | .ecDouble => false
  | .ecAdd => false
  | .ecScalarMul => false
  | .ecOnCurve => true
  | .es256Sign => false
  | .es256Verify => true

/-- The facts that hold at reset and that each event of the core keeps. -/
structure Invariant (s : State) : Prop where
  /-- DMEM's written offsets rise strictly and lie in DMEM (`20_memory.md` R62). -/
  dmem_canonical : s.dmem.wf = true
  /-- ERRCODE is 0 or the code of an error that this core raises (`60_exceptions.md` R302; U11 and U12 of
  `93_implementation_defined.md`: no reserved code, no ALG_MISMATCH, no MASK_TOO_LONG). -/
  errcode_known : s.errcode = 0 ∨ ∃ e : CmdError, e ≠ .maskTooLong ∧ s.errcode = e.code
  /-- STATUS.ERR = 1 exactly when ERRCODE.CLASS ≠ 0 (`10_state.md` R24). -/
  err_iff_class : s.status.err = true ↔ errcodeClass s.errcode ≠ 0
  /-- After an error completion RESULT_LEN and VALID are 0 (`60_exceptions.md` R304). -/
  err_clears : s.status.err = true → s.resultLen = 0 ∧ s.status.valid = false
  /-- VALID is 1 only after one of the six commands that report a boolean (`10_state.md` R32). -/
  valid_reported : s.status.valid = true → ∃ i, decode s.cmdLast = .ok i ∧ reportsValid i = true
  /-- No command reports more bytes than DMEM holds (`10_state.md` R27; `20_memory.md` R71). -/
  resultLen_bound : s.resultLen.toNat ≤ Config.dmemBytes
  /-- While BUSY = 1 the last completion record is cleared (`10_state.md` R37; `70_reset_and_hazards.md` R346), the
  word in flight is CMD_LAST (R37), and its operands are those in ARG0..ARG7 (R33). -/
  busy_record : ∀ c, s.inflight = some c →
    c.word = s.cmdLast ∧ c.args = s.args ∧ s.status.done = false ∧ s.status.err = false ∧ s.status.valid = false ∧
      s.errcode = 0 ∧ s.resultLen = 0

end Sys2Proof.Machine
end

