-- ==== Sys2Proof/Certificates/Slice0/Vocabulary.lean ====
section
/-! DEFINITION. The words of the obligations, written from the spec's tables and formulas and apart from the
definitions of the machine that they are used to speak about. -/

namespace Sys2Proof.Claims

open Sys2Proof.Machine

/-! ### Operand regions (`20_memory.md` R71, R72; `30_encoding.md` R95) -/

/-- The region of `len` bytes at `addr` is in bounds (`20_memory.md` R71, with DMEM_BYTES of `00_scope.md` R7). -/
abbrev Inside (addr : Word) (len : Nat) : Prop := addr.toNat + len ≤ 65536

/-- The output region overlaps the input region (`20_memory.md` R72). -/
abbrev Overlaps (dst : Word) (outLen : Nat) (a : Word) (l : Nat) : Prop :=
  outLen > 0 ∧ l > 0 ∧ dst.toNat < a.toNat + l ∧ a.toNat < dst.toNat + outLen

/-- kLen = bitLength / 8 (`44_rsa_engine.md` R200). -/
abbrev kLen (A : Args) : Nat := A.a0.toNat / 8

/-- The bit length of an RSA key passes key check 1 (`44_rsa_engine.md` R200). -/
abbrev KeyLengthOk (A : Args) : Prop := A.a0.toNat % 8 = 0 ∧ 8 ≤ A.a0.toNat ∧ A.a0.toNat ≤ 4096

/-- The commands that take an RSA key (`60_exceptions.md` R306, step 2). -/
def takesRsaKey : Instr → Bool
  | .rsasp1 => true
  | .rsavp1 => true
  | .rs256Sign => true
  | .rs256Verify => true
  | .ps256Sign => true
  | .ps256Verify => true
  | _ => false

/-- The input regions of a command, address and length, with the salt or nonce region only when X = 1
(`30_encoding.md` R95). -/
def inputs (i : Instr) (A : Args) (x : Bool) : List (Word × Nat) :=
  match i with
  | .sha256 _ => [(A.a0, A.a1.toNat)]
  | .hmacSha256 => [(A.a0, A.a1.toNat), (A.a2, A.a3.toNat)]
  | .hmacVerify => [(A.a0, A.a1.toNat), (A.a2, A.a3.toNat), (A.a4, A.a5.toNat)]
  | .b64uEncode _ => [(A.a0, A.a1.toNat)]
  | .b64uDecode => [(A.a0, A.a1.toNat)]
  | .emsaPkcs1Encode => [(A.a0, 32)]
  | .mgf1 => [(A.a0, A.a1.toNat)]
  | .emsaPssEncode => [(A.a0, A.a1.toNat)] ++ (if x then [(A.a5, A.a2.toNat)] else [])
  | .emsaPssVerify => [(A.a0, A.a1.toNat), (A.a4, A.a5.toNat)]
  | .i2osp => [(A.a0, A.a1.toNat)]
  | .rsasp1 => [(A.a1, kLen A), (A.a2, kLen A), (A.a3, kLen A)]
  | .rsavp1 => [(A.a1, kLen A), (A.a2, kLen A), (A.a3, kLen A)]
  | .rs256Sign => [(A.a1, kLen A), (A.a2, kLen A), (A.a3, A.a4.toNat)]
  | .rs256Verify => [(A.a1, kLen A), (A.a2, kLen A), (A.a3, A.a4.toNat), (A.a5, A.a6.toNat)]
  | .ps256Sign => [(A.a1, kLen A), (A.a2, kLen A), (A.a3, A.a4.toNat)] ++ (if x then [(A.a6, 32)] else [])
  | .ps256Verify => [(A.a1, kLen A), (A.a2, kLen A), (A.a3, A.a4.toNat), (A.a5, A.a6.toNat)]
  | .ecDouble => [(A.a0, 65)]
  | .ecAdd => [(A.a0, 65), (A.a1, 65)]
  | .ecScalarMul => [(A.a0, 65), (A.a1, 32)]
  | .ecOnCurve => [(A.a0, 65)]
  | .es256Sign => [(A.a0, 32), (A.a1, A.a2.toNat)] ++ (if x then [(A.a4, 32)] else [])
  | .es256Verify => [(A.a0, 65), (A.a1, A.a2.toNat), (A.a3, A.a4.toNat)]

/-- The ARG register that holds the dst address, for a command with an output region (`30_encoding.md` R95). -/
def destination (i : Instr) (A : Args) : Option Word :=
  match i with
  | .sha256 _ => some A.a2
  | .hmacSha256 => some A.a4
  | .hmacVerify => none
  | .b64uEncode _ => some A.a2
  | .b64uDecode => some A.a2
  | .emsaPkcs1Encode => some A.a2
  | .mgf1 => some A.a3
  | .emsaPssEncode => some A.a4
  | .emsaPssVerify => none
  | .i2osp => some A.a3
  | .rsasp1 => some A.a4
  | .rsavp1 => some A.a4
  | .rs256Sign => some A.a5
  | .rs256Verify => none
  | .ps256Sign => some A.a5
  | .ps256Verify => none
  | .ecDouble => some A.a1
  | .ecAdd => some A.a2
  | .ecScalarMul => some A.a2
  | .ecOnCurve => none
  | .es256Sign => some A.a3
  | .es256Verify => none

/-- outLen where the ARG values give it (`30_encoding.md` R95): 0 for a command without an output region, none for
B64U_DECODE, whose text gives it. -/
def outLen (i : Instr) (A : Args) : Option Nat :=
  match i with
  | .sha256 hex => some (if hex then 64 else 32)
  | .hmacSha256 => some 32
  | .hmacVerify => some 0
  | .b64uEncode pad => some (if pad then 4 * ((A.a1.toNat + 2) / 3) else (4 * A.a1.toNat + 2) / 3)
  | .b64uDecode => none
  | .emsaPkcs1Encode => some A.a1.toNat
  | .mgf1 => some A.a2.toNat
  | .emsaPssEncode => some ((A.a3.toNat + 7) / 8)
  | .emsaPssVerify => some 0
  | .i2osp => some A.a2.toNat
  | .rsasp1 => some (kLen A)
  | .rsavp1 => some (kLen A)
  | .rs256Sign => some (kLen A)
  | .rs256Verify => some 0
  | .ps256Sign => some (kLen A)
  | .ps256Verify => some 0
  | .ecDouble => some 65
  | .ecAdd => some 65
  | .ecScalarMul => some 65
  | .ecOnCurve => some 0
  | .es256Sign => some 64
  | .es256Verify => some 0

/-- The output region that the ARG values give, address and length. -/
def output (i : Instr) (A : Args) : Option (Word × Nat) :=
  match destination i A, outLen i A with
  | some a, some l => some (a, l)
  | _, _ => none

/-- Step 2 and step 3 of `60_exceptions.md` R306 pass: the key length, and every region the ARG values name. -/
def RegionsInside (i : Instr) (A : Args) (x : Bool) : Prop :=
  (takesRsaKey i = true → KeyLengthOk A) ∧ (∀ r ∈ inputs i A x, Inside r.1 r.2) ∧
    (∀ r, output i A = some r → Inside r.1 r.2)

/-- Step 4 of `60_exceptions.md` R306 passes: the output region overlaps no input region. -/
def OutputApart (i : Instr) (A : Args) (x : Bool) : Prop :=
  ∀ o, output i A = some o → ∀ r ∈ inputs i A x, ¬ Overlaps o.1 o.2 r.1 r.2

/-- Steps 2 to 4 of `60_exceptions.md` R306 pass. -/
def ChecksPass (i : Instr) (A : Args) (x : Bool) : Prop := RegionsInside i A x ∧ OutputApart i A x

/-- The ARG registers a command names, the salt and nonce addresses only when X = 1 (`30_encoding.md` R95). -/
def namedArgs (i : Instr) (x : Bool) : List (Fin 8) :=
  match i with
  | .sha256 _ => [0, 1, 2]
  | .hmacSha256 => [0, 1, 2, 3, 4]
  | .hmacVerify => [0, 1, 2, 3, 4, 5]
  | .b64uEncode _ => [0, 1, 2]
  | .b64uDecode => [0, 1, 2]
  | .emsaPkcs1Encode => [0, 1, 2]
  | .mgf1 => [0, 1, 2, 3]
  | .emsaPssEncode => if x then [0, 1, 2, 3, 4, 5] else [0, 1, 2, 3, 4]
  | .emsaPssVerify => [0, 1, 2, 3, 4, 5]
  | .i2osp => [0, 1, 2, 3]
  | .rsasp1 => [0, 1, 2, 3, 4]
  | .rsavp1 => [0, 1, 2, 3, 4]
  | .rs256Sign => [0, 1, 2, 3, 4, 5]
  | .rs256Verify => [0, 1, 2, 3, 4, 5, 6]
  | .ps256Sign => if x then [0, 1, 2, 3, 4, 5, 6] else [0, 1, 2, 3, 4, 5]
  | .ps256Verify => [0, 1, 2, 3, 4, 5, 6]
  | .ecDouble => [0, 1]
  | .ecAdd => [0, 1, 2]
  | .ecScalarMul => [0, 1, 2]
  | .ecOnCurve => [0]
  | .es256Sign => if x then [0, 1, 2, 3, 4] else [0, 1, 2, 3]
  | .es256Verify => [0, 1, 2, 3, 4]

/-- The three commands that may draw random values (`70_reset_and_hazards.md` R348). -/
def mayDraw : Instr → Bool
  | .emsaPssEncode => true
  | .ps256Sign => true
  | .es256Sign => true
  | _ => false

/-! ### Completion records (`60_exceptions.md` R304, R305) -/

/-- The state after a successful completion that wrote `bytes` at `dst`, VALID = 0, `draws` values drawn from the
RNG: every field that the record does not name is as it was. -/
def succeeded (s : State) (dst : Word) (bytes : Bytes) (draws : Nat := 0) : State :=
  { s with
    dmem := s.dmem.write dst.toNat bytes
    resultLen := BitVec.ofNat 32 bytes.length
    errcode := 0
    status := { s.status with done := true, err := false, valid := false }
    inflight := none
    rngDraws := s.rngDraws + draws }

/-- The state after the successful completion of a command that reports the boolean `v` and writes nothing. -/
def answered (s : State) (v : Bool) : State :=
  { s with
    resultLen := 0
    errcode := 0
    status := { s.status with done := true, err := false, valid := v }
    inflight := none }

/-- The state after an error completion with this ERRCODE, `draws` values drawn from the RNG. -/
def failed (s : State) (errcode : Word) (draws : Nat := 0) : State :=
  { s with
    resultLen := 0
    errcode := errcode
    status := { s.status with done := true, err := true, valid := false }
    inflight := none
    rngDraws := s.rngDraws + draws }

/-! ### Byte strings -/

/-- The byte string a region holds. -/
abbrev textAt (s : State) (addr len : Word) : Bytes := s.dmem.read addr.toNat len.toNat

/-- The big-endian integer of `len` bytes at an address (`00_scope.md` R11). -/
abbrev intAt (s : State) (addr : Word) (len : Nat) : Nat := os2ip (s.dmem.read addr.toNat len)

/-- The character of a nibble, from the sixteen lowercase digits in order (`40_sha256.md` R129). -/
def hexDigit (nibble : Nat) : Byte :=
  ([0x30, 0x31, 0x32, 0x33, 0x34, 0x35, 0x36, 0x37, 0x38, 0x39, 0x61, 0x62, 0x63, 0x64, 0x65, 0x66] : Bytes).getD nibble 0

/-- hex(D) (`40_sha256.md` R129). -/
def hexOf (d : Bytes) : Bytes := (d.map fun b => [hexDigit (b.toNat / 16), hexDigit (b.toNat % 16)]).flatten

/-- K' (`41_hmac.md` R140). -/
def blockKey (k : Bytes) : Bytes :=
  if k.length ≤ 64 then k ++ List.replicate (64 - k.length) 0x00 else sha256 k ++ List.replicate 32 0x00

/-- HMAC(K, M), the key bytes XORed one by one (`41_hmac.md` R140). -/
def hmacText (k m : Bytes) : Bytes :=
  sha256 ((blockKey k).map (· ^^^ 0x5c) ++ sha256 ((blockKey k).map (· ^^^ 0x36) ++ m))

/-- The base64url alphabet in the order of its values (`42_base64url.md` R150). -/
def alphabet : Bytes :=
  (List.range 26).map (fun i => BitVec.ofNat 8 (0x41 + i)) ++ (List.range 26).map (fun i => BitVec.ofNat 8 (0x61 + i)) ++
    (List.range 10).map (fun i => BitVec.ofNat 8 (0x30 + i)) ++ [0x2D, 0x5F]

/-- The characters of a list of 6-bit values. -/
def charsOf (vals : List Nat) : Bytes := vals.map fun v => alphabet.getD v 0

/-- The integer of a list of 6-bit values, the first most significant. -/
def valueOf (vals : List Nat) : Nat := vals.foldl (fun acc v => 64 * acc + v) 0

/-- EncPKCS1(D, emLen), written out (`43_rsa_padding.md` R170, R171). -/
def pkcs1Text (digest : Bytes) (emLen : Nat) : Bytes :=
  [0x00, 0x01] ++ List.replicate (emLen - 54) 0xFF ++
    [0x00, 0x30, 0x31, 0x30, 0x0D, 0x06, 0x09, 0x60, 0x86, 0x48, 0x01, 0x65, 0x03, 0x04, 0x02, 0x01, 0x05, 0x00, 0x04,
      0x20] ++ digest

/-- MGF1(seed, n), byte by byte: byte j is byte j mod 32 of the hash number ⌊j/32⌋ (`43_rsa_padding.md` R173). -/
def maskText (seed : Bytes) (n : Nat) : Bytes :=
  let hashes := (List.range (n / 32 + 1)).map fun i => sha256 (seed ++ i2osp i 4)
  (List.range n).map fun j => (hashes.getD (j / 32) []).getD (j % 32) 0

/-- EncPSS(M, |salt|, modBits, salt) where emLen ≥ 34 + |salt| (`43_rsa_padding.md` R175). -/
def pssText (m salt : Bytes) (modBits : Nat) : Bytes :=
  let emLen := (modBits + 7) / 8
  let h := sha256 (List.replicate 8 0x00 ++ sha256 m ++ salt)
  let db : Bytes := List.replicate (emLen - salt.length - 34) 0x00 ++ 0x01 :: salt
  let keep := (0xFF : Byte) >>> (8 * emLen - modBits)
  ((List.range (emLen - 33)).map fun j =>
      let b := db.getD j 0 ^^^ (maskText h (emLen - 33)).getD j 0
      if j = 0 then b &&& keep else b) ++ h ++ [0xBC]

/-! ### Points -/

/-- A 65-byte operand spells a point (`30_encoding.md` R96; `45_ec_point.md` R231): the tag 0x00 and any 64 bytes,
or the tag 0x04 and two coordinates below q. -/
def Spells (op : Bytes) (p : Point) : Prop :=
  match p with
  | .identity => ∃ rest, op = 0x00 :: rest ∧ rest.length = 64
  | .affine x y => ∃ X Y, op = 0x04 :: (X ++ Y) ∧ X.length = 32 ∧ Y.length = 32 ∧ os2ip X = x ∧ os2ip Y = y ∧
      x < curveQ ∧ y < curveQ

/-- The bytes of a point on output (`45_ec_point.md` R231). -/
def pointBytes : Point → Bytes
  | .identity => 0x00 :: List.replicate 64 0x00
  | .affine x y => 0x04 :: (i2osp x 32 ++ i2osp y 32)

/-- (x', y') is the third point for the slope s through (x, y), the line's other point having the coordinate x2, all
mod q (`45_ec_point.md` R233, R234). -/
def ThirdPoint (s : Int) (x y x2 x' y' : Nat) : Prop :=
  x' < curveQ ∧ y' < curveQ ∧ (x' : Int) ≡ s ^ 2 - x - x2 [ZMOD curveQ] ∧ (y' : Int) ≡ s * (x - x') - y [ZMOD curveQ]

/-- R is double(P) (`45_ec_point.md` R233). -/
def IsDouble : Point → Point → Prop
  | .identity, r => r = .identity
  | .affine x y, .affine x' y' =>
    y ≠ 0 ∧ ∃ s : Int, s * (2 * y) ≡ 3 * x ^ 2 + curveA [ZMOD curveQ] ∧ ThirdPoint s x y x x' y'
  | .affine _ _, .identity => False

/-- R is add(P, Q), the cases in order (`45_ec_point.md` R234). -/
def IsSum : Point → Point → Point → Prop
  | .identity, q, r => r = q
  | .affine x y, .identity, r => r = .affine x y
  | .affine xp yp, .affine xq yq, r =>
    if xp = xq ∧ (yp + yq) % curveQ = 0 then r = .identity
    else if xp = xq ∧ yp = yq then IsDouble (.affine xp yp) r
    else match r with
      | .identity => False
      | .affine x' y' =>
        xp ≠ xq ∧ ∃ s : Int, s * ((xq : Int) - xp) ≡ (yq : Int) - yp [ZMOD curveQ] ∧ ThirdPoint s xp yp xq x' y'

/-- The rest of the loop of scalarMultiply on the remaining bits k, least significant first, from R = r and A = a; no
doubling follows the last bit (`45_ec_point.md` R235). -/
inductive Ladder : Nat → Point → Point → Point → Prop where
  | none (r a : Point) : Ladder 0 r a r
  | last {r a r' : Point} : IsSum r a r' → Ladder 1 r a r'
  | clear {k : Nat} {r a a' z : Point} : 1 ≤ k → IsDouble a a' → Ladder k r a' z → Ladder (2 * k) r a z
  | set {k : Nat} {r r' a a' z : Point} :
      1 ≤ k → IsSum r a r' → IsDouble a a' → Ladder k r' a' z → Ladder (2 * k + 1) r a z

/-- R is scalarMultiply(P, k) (`45_ec_point.md` R235). -/
def Multiple (p : Point) (k : Nat) (r : Point) : Prop := Ladder k .identity p r

/-- The one case of add that the source does not cover: equal x, and y neither equal nor opposite (`45_ec_point.md`
R234). -/
def Uncovered : Point → Point → Prop
  | .affine xp yp, .affine xq yq => xp = xq ∧ yp ≠ yq ∧ (yp + yq) % curveQ ≠ 0
  | _, _ => False

/-- (x, y) is a point of P-256 (`45_ec_point.md` R230, R236). -/
def OnCurve (x y : Nat) : Prop :=
  x < curveQ ∧ y < curveQ ∧ y ^ 2 ≡ x ^ 3 + curveA * x + curveB [MOD curveQ]

/-- A point of P-256 or Identity. -/
def CurvePoint : Point → Prop
  | .identity => True
  | .affine x y => OnCurve x y

/-! ### ECDSA (`46_ecdsa.md` R263, R264) -/

/-- e of R260. -/
abbrev digestInt (m : Bytes) : Nat := os2ip (sha256 m)

/-- One try with the nonce k gives the signature (r, g), with k·g ≡ e + r·d mod n. -/
def SignsWith (d e k r g : Nat) : Prop :=
  ∃ x y, Multiple curveG k (.affine x y) ∧ r = x % curveN ∧ r ≠ 0 ∧ 0 < g ∧ g < curveN ∧ k * g ≡ e + r * d [MOD curveN]

/-- One try with the nonce k gives r = 0 or s = 0. That [k]G is Identity, which the spec rules out for a nonce in
range (`46_ecdsa.md` R263), counts as a rejection here (the model's choice, log entry 8). -/
def Rejects (d e k : Nat) : Prop :=
  Multiple curveG k .identity ∨
    ∃ x y, Multiple curveG k (.affine x y) ∧ (x % curveN = 0 ∨ (e + x % curveN * d) % curveN = 0)

/-- The key operand and the signature (r, g) verify for the message representative e. -/
def Accepts (op : Bytes) (e r g : Nat) : Prop :=
  1 ≤ r ∧ r < curveN ∧ 1 ≤ g ∧ g < curveN ∧ ∃ x y, Spells op (.affine x y) ∧ OnCurve x y ∧
    ∃ c, g * c ≡ 1 [MOD curveN] ∧ ∃ p1 p2 px py, Multiple curveG (e * c % curveN) p1 ∧
      Multiple (.affine x y) (r * c % curveN) p2 ∧ IsSum p1 p2 (.affine px py) ∧ px % curveN = r

end Sys2Proof.Claims
end

