-- ==== Sys2Proof/Certificates/Slice0/Obligations.lean ====
section
/-! DEFINITION. The statements for the provers. Each formalises rules of spec/, named in its docstring. -/

section

open Sys2Proof Sys2Proof.Machine Sys2Proof.Claims

/-! ### Command words -/

/-- Decode and encode agree: each command decodes from its own word, and a word decodes to a command only if it is
that command's word (`30_encoding.md` R94, R98). -/
def Obligations.DecodeEncodeAgree : Prop :=
  (∀ i : Instr, i.wellFormed = true → decode (encode i) = .ok i ∧ decodeTableWord 32 (encode i).toNat = some i) ∧
    ∀ (w : Word) (i : Instr), decode w = .ok i → encode i = w

/-- Decode makes its four checks in the order of `30_encoding.md` R98, and answers the command with the word's opcode
and flags when they pass. -/
def Obligations.DecodeChecksInOrder : Prop :=
  ∀ w : Word,
    (wordReservedZero w = false → decode w = .error .reservedBits) ∧
    (wordReservedZero w = true → wordOpcodeDefined w = false → decode w = .error .reservedOpcode) ∧
    (wordReservedZero w = true → wordOpcodeDefined w = true →
      (w.toNat % 256 = 0x01 ∨ w.toNat % 256 = 0x04) → w.toNat / 512 ≠ 0 → decode w = .error .undefinedFlagBits) ∧
    (wordReservedZero w = true → wordOpcodeDefined w = true →
      w.toNat % 256 ≠ 0x01 → w.toNat % 256 ≠ 0x04 → w.toNat / 256 ≠ 0 → decode w = .error .flagsNotZero) ∧
    (wordWellFormed w = true → ∃ i, decode w = .ok i ∧ i.opcode = w.toNat % 256 ∧ i.flags = w.toNat / 256)

/-- Some words written out from the table of `30_encoding.md` R94. -/
def Obligations.WrittenWordsDecode : Prop :=
  decode 0x00000001 = .ok (.sha256 false) ∧ decode 0x00000101 = .ok (.sha256 true) ∧
    decode 0x00000104 = .ok (.b64uEncode true) ∧ decode 0x0000000A = .ok .emsaPssEncode ∧
    decode 0x00000016 = .ok .ps256Verify ∧ decode 0x0000001C = .ok .es256Sign ∧
    decode 0x00000000 = .error .reservedOpcode ∧ decode 0x00010001 = .error .reservedBits

/-! ### The step -/

/-- When the sequencer moves next (its turn is first, or no event is left) and the word in flight decodes to i, the
step is exec of i, with the sequencer's turn taken off the list (`10_state.md` R38; the list of turns is the model's
form of the total order of `20_memory.md` R76, log entry 4). -/
def Obligations.StepRunsDecodedCommand : Prop :=
  ∀ (s : State) (c : InFlight) (i : Instr), s.inflight = some c → decode c.word = .ok i → i.wellFormed = true →
    (s.turns = [] → step s = exec i s) ∧
    ∀ rest, s.turns = .completion :: rest → step s = exec i { s with turns := rest }

/-- A reserved opcode, a nonzero undefined FLAGS bit or a nonzero RSVD bit: the command completes with
Error(UNSUPPORTED, ILLEGAL_CMD), ERRCODE 0x3003, and changes nothing else (`30_encoding.md` R99). That the sequencer
moves when no event is left, and that its turn is otherwise taken off the list of turns, is the model's choice (log
entry 4). -/
def Obligations.IllegalWordsComplete : Prop :=
  ∀ (s : State) (c : InFlight), s.inflight = some c → wordWellFormed c.word = false →
    (s.turns = [] → step s = .next (failed s 0x3003)) ∧
    ∀ rest, s.turns = .completion :: rest → step s = .next (failed { s with turns := rest } 0x3003)

/-- Every step has a next state: no command and no host access stops the core (`60_exceptions.md` R300). -/
def Obligations.StepNeverStops : Prop := ∀ s : State, ∃ t, step s = .next t

/-- Progress (`70_reset_and_hazards.md` R352). After the events still to come and one step more the core is idle. A
command in flight, where no reset or power-on is among these events, stays in flight for some of them and then
completes, with DONE = 1. How many events come before the completion is the list of turns (the model's choice, log
entry 4). -/
def Obligations.CoreGoesIdle : Prop :=
  (∀ s : State, ∃ t : State,
    Host.Core.run Sys2Proof.core (s.turns.length + 1) s = .next t ∧ t.inflight = none ∧ t.turns = []) ∧
  ∀ (s : State) (c : InFlight), s.inflight = some c → (∀ e ∈ s.turns, e ≠ .resetInput ∧ e ≠ .powerOn) →
    ∃ k ≤ s.turns.length,
      (∀ j ≤ k, ∃ u : State, Host.Core.run Sys2Proof.core j s = .next u ∧ u.inflight = some c) ∧
      ∃ t : State, Host.Core.run Sys2Proof.core (k + 1) s = .next t ∧ t.inflight = none ∧ t.status.done = true

/-- The invariant holds after reset. -/
def Obligations.ResetMeetsInvariant : Prop := Invariant State.reset

/-- Every step keeps the invariant: DMEM stays canonical, ERRCODE is a code this core raises, ERR agrees with CLASS,
VALID is 1 only after the six commands that report a boolean, RESULT_LEN is at most DMEM_BYTES, and the record of a
busy core is cleared. -/
def Obligations.StepKeepsInvariant : Prop := ∀ s t : State, Invariant s → step s = .next t → Invariant t

/-! ### Reset -/

/-- The reset state (`70_reset_and_hazards.md` R340), after the reset input in any state, after power-on in any state,
and in State.reset. That both events are items of the list of turns is the model's choice (log entry 4). -/
def Obligations.ResetState : Prop :=
  ∀ t : State, (t = State.reset ∨ (∃ (s : State) (rest : List Turn), s.turns = .resetInput :: rest ∧ step s = .next t) ∨
      ∃ (s : State) (rest : List Turn), s.turns = .powerOn :: rest ∧ step s = .next t) →
    t.readReg .id = 0x4A575443 ∧ t.readReg .version = 0x00010000 ∧ t.readReg .ctrl = 0 ∧ t.readReg .status = 0 ∧
      t.readReg .cmd = 0 ∧ t.readReg .errcode = 0 ∧ t.readReg .resultLen = 0 ∧ (∀ i, t.readReg (.arg i) = 0) ∧
      t.inflight = none ∧ t.busy = false ∧ t.irq = false

/-- The reset input keeps every byte of DMEM and discards a command in flight, which writes nothing and draws nothing
(`70_reset_and_hazards.md` R341, R343). After power-on every byte is the free byte of that power-on (log entry 1). -/
def Obligations.ResetAndDmem : Prop :=
  ∀ (s : State) (rest : List Turn),
    (s.turns = .resetInput :: rest → ∃ t, step s = .next t ∧ (∀ a, t.dmem.byte a = s.dmem.byte a) ∧
      t.inflight = none ∧ t.rngDraws = s.rngDraws) ∧
    (s.turns = .powerOn :: rest → ∃ t, step s = .next t ∧
      (∀ a, t.dmem.byte a = Config.powerOnByte (s.dmem.powerOn + 1) a) ∧ t.inflight = none ∧ t.rngDraws = s.rngDraws)

/-! ### The host port -/

/-- Command issue (`10_state.md` R37), for every word, as one step. That the write is an item of the list of turns,
which the step takes off, is the model's choice (log entry 4). -/
def Obligations.CommandIssue : Prop :=
  ∀ (s : State) (w : Word) (rest : List Turn), s.turns = .host (.write .word 0x00010 w) :: rest →
    (s.inflight ≠ none →
      step s = .next { s with turns := rest, status := { s.status with cmdOverrun := true } }) ∧
    (s.inflight = none →
      step s = .next { s with
        turns := rest
        cmdLast := w
        status := { s.status with done := false, err := false, valid := false }
        errcode := 0
        resultLen := 0
        inflight := some { word := w, args := s.args, extRand := s.ctrl.extRand } })

/-- Byte lanes (`20_memory.md` R68): a performed write of n bytes stores (v >> 8i) mod 256 at d + i and leaves every
other byte and all other state alone; a performed read returns the little-endian sum; a register read returns the
register's value, which is CMD_LAST at CMD, and the register's own at ERRCODE, RESULT_LEN and ARG0 to ARG7
(`10_state.md` R25 to R28). ID and VERSION are in IgnoredAccesses, CTRL and STATUS in StatusAndControlRead. -/
def Obligations.ByteLanes : Prop :=
  (∀ (s : State) (size : AccessSize) (o : Offset) (d : Nat), s.inflight = none → o.toNat = 0x10000 + d →
    d % size.bytes = 0 →
    (s.hostRead size o).2 = s ∧
      (s.hostRead size o).1.toNat = ((List.range size.bytes).map fun i => (s.dmem.byte (d + i)).toNat * 256 ^ i).sum ∧
      ∀ v : Word, (∃ m, s.hostWrite size o v = { s with dmem := m }) ∧
        (∀ i, i < size.bytes → ((s.hostWrite size o v).dmem.byte (d + i)).toNat = (v.toNat >>> (8 * i)) % 256) ∧
        ∀ a, ¬ (d ≤ a ∧ a < d + size.bytes) → (s.hostWrite size o v).dmem.byte a = s.dmem.byte a) ∧
  (∀ (s : State) (o : Offset), o.toNat < 0x1000 → o.toNat % 4 = 0 →
    s.hostRead .word o = (s.readReg (regAt o.toNat), s)) ∧
  ∀ s : State, s.hostRead .word 0x00010 = (s.cmdLast, s) ∧ s.hostRead .word 0x00014 = (s.errcode, s) ∧
    s.hostRead .word 0x00018 = (s.resultLen, s) ∧ s.hostRead .word 0x00020 = (s.args.a0, s) ∧
    s.hostRead .word 0x00024 = (s.args.a1, s) ∧ s.hostRead .word 0x00028 = (s.args.a2, s) ∧
    s.hostRead .word 0x0002C = (s.args.a3, s) ∧ s.hostRead .word 0x00030 = (s.args.a4, s) ∧
    s.hostRead .word 0x00034 = (s.args.a5, s) ∧ s.hostRead .word 0x00038 = (s.args.a6, s) ∧
    s.hostRead .word 0x0003C = (s.args.a7, s)

/-- While BUSY = 1 every DMEM access is dropped and sets ACCESS_ERR (`20_memory.md` R67), and so is a write to ARG0 to
ARG7, while reads of every register and writes to CTRL, STATUS and CMD are performed (R66). -/
def Obligations.BusyDropsAccesses : Prop :=
  ∀ s : State, s.inflight ≠ none →
    (∀ (size : AccessSize) (o : Offset) (v : Word), 0x10000 ≤ o.toNat →
      s.hostRead size o = (0, { s with status := { s.status with accessErr := true } }) ∧
      s.hostWrite size o v = { s with status := { s.status with accessErr := true } }) ∧
    (∀ (o : Offset) (v : Word), o.toNat % 4 = 0 → 0x020 ≤ o.toNat → o.toNat < 0x040 →
      s.hostWrite .word o v = { s with status := { s.status with accessErr := true } }) ∧
    (∀ o : Offset, o.toNat % 4 = 0 → o.toNat < 0x1000 → s.hostRead .word o = (s.readReg (regAt o.toNat), s)) ∧
    ∀ v : Word, s.hostWrite .word 0x00008 v = { s with ctrl := { ie := v.getLsbD 0, extRand := v.getLsbD 1 } } ∧
      s.hostWrite .word 0x0000C v = { s with status := s.status.writeOneToClear v } ∧
      s.hostWrite .word 0x00010 v = { s with status := { s.status with cmdOverrun := true } }

/-- A register access that is not four aligned bytes (`20_memory.md` R64) and a misaligned DMEM access (R65) are
dropped: a write changes nothing, a read returns 0, and ACCESS_ERR is set. Every other register access, and every
aligned DMEM access of an idle core, is performed. -/
def Obligations.MisalignedAccesses : Prop :=
  ∀ (s : State) (size : AccessSize) (o : Offset) (v : Word),
    (o.toNat < 0x1000 → size.bytes ≠ 4 ∨ o.toNat % 4 ≠ 0 →
      s.hostRead size o = (0, { s with status := { s.status with accessErr := true } }) ∧
      s.hostWrite size o v = { s with status := { s.status with accessErr := true } }) ∧
    (o.toNat < 0x1000 → size.bytes = 4 → o.toNat % 4 = 0 →
      s.hostRead size o = (s.readReg (regAt o.toNat), s) ∧ s.hostWrite size o v = s.writeReg (regAt o.toNat) v) ∧
    (0x10000 ≤ o.toNat → o.toNat % size.bytes ≠ 0 →
      s.hostRead size o = (0, { s with status := { s.status with accessErr := true } }) ∧
      s.hostWrite size o v = { s with status := { s.status with accessErr := true } }) ∧
    (0x10000 ≤ o.toNat → o.toNat % size.bytes = 0 → s.inflight = none →
      s.hostRead size o = (lanesToWord (s.dmem.read (o.toNat - 0x10000) size.bytes), s) ∧
      s.hostWrite size o v = { s with dmem := s.dmem.write (o.toNat - 0x10000) (wordToLanes v size.bytes) })

/-- ID and VERSION always read their values and ignore writes (`10_state.md` R22); a write to a read-only register is
ignored and does not set ACCESS_ERR (R30); an unimplemented register reads 0 and ignores its write (R29); so does an
unmapped offset, whatever the size and alignment (`20_memory.md` R69). -/
def Obligations.IgnoredAccesses : Prop :=
  ∀ (s : State) (v : Word),
    s.hostRead .word 0x00000 = (0x4A575443, s) ∧ s.hostRead .word 0x00004 = (0x00010000, s) ∧
    s.hostWrite .word 0x00000 v = s ∧ s.hostWrite .word 0x00004 v = s ∧
    s.hostWrite .word 0x00014 v = s ∧ s.hostWrite .word 0x00018 v = s ∧
    (∀ o : Offset, o.toNat % 4 = 0 → o.toNat = 0x01C ∨ (0x040 ≤ o.toNat ∧ o.toNat < 0x1000) →
      s.hostRead .word o = (0, s) ∧ s.hostWrite .word o v = s) ∧
    ∀ (size : AccessSize) (o : Offset), 0x1000 ≤ o.toNat → o.toNat < 0x10000 →
      s.hostRead size o = (0, s) ∧ s.hostWrite size o v = s

/-- The words read at STATUS and CTRL, bit by bit, at any time: BUSY (a command is in flight), DONE, ERR, VALID,
CMD_OVERRUN, ACCESS_ERR and 26 zeros (`10_state.md` R24, R33); IE, EXT_RAND and 30 zeros (R23). The read changes
nothing. -/
def Obligations.StatusAndControlRead : Prop :=
  ∀ s : State, ∃ w c : Word,
    s.hostRead .word 0x0000C = (w, s) ∧ s.hostRead .word 0x00008 = (c, s) ∧
    (w.getLsbD 0 = true ↔ s.inflight ≠ none) ∧ w.getLsbD 1 = s.status.done ∧ w.getLsbD 2 = s.status.err ∧
    w.getLsbD 3 = s.status.valid ∧ w.getLsbD 4 = s.status.cmdOverrun ∧ w.getLsbD 5 = s.status.accessErr ∧
    (∀ j, 6 ≤ j → w.getLsbD j = false) ∧
    c.getLsbD 0 = s.ctrl.ie ∧ c.getLsbD 1 = s.ctrl.extRand ∧ ∀ j, 2 ≤ j → c.getLsbD j = false

/-- A step whose event is a host access is that access (`20_memory.md` R63, R76): a read leaves the state of hostRead,
with the value it returned in the model's own readData (log entry 5), a write that of hostWrite; the access is taken
off the list of turns (the model's choice, log entry 4). -/
def Obligations.StepTakesHostAccess : Prop :=
  ∀ (s : State) (rest : List Turn) (size : AccessSize) (o : Offset),
    (s.turns = .host (.read size o) :: rest →
      step s = .next { (s.hostRead size o).2 with readData := (s.hostRead size o).1, turns := rest }) ∧
    ∀ v : Word, s.turns = .host (.write size o v) :: rest →
      step s = .next { s.hostWrite size o v with turns := rest }

/-- A write to STATUS clears DONE, CMD_OVERRUN and ACCESS_ERR where the written bit is 1 and changes nothing else: the
word read afterwards is the word read before without those bits (`10_state.md` R24; `60_exceptions.md` R309). -/
def Obligations.StatusWriteClears : Prop :=
  ∀ (s : State) (v : Word),
    (s.hostWrite .word 0x0000C v).statusWord = s.statusWord &&& ~~~(v &&& 0x32) ∧
      (∃ st : Status, s.hostWrite .word 0x0000C v = { s with status := st } ∧ st.err = s.status.err ∧
        st.valid = s.status.valid)

/-- CTRL stores its two low bits at any time and reads its reserved bits as 0 (`10_state.md` R23). An idle core's ARG
write stores the word in that ARG alone, and it reads back (R28). -/
def Obligations.RegisterWritesStore : Prop :=
  (∀ (s : State) (v : Word), (s.hostWrite .word 0x00008 v).readReg .ctrl = v &&& 3 ∧
    ∃ k, s.hostWrite .word 0x00008 v = { s with ctrl := k }) ∧
  ∀ (s : State) (v : Word) (i : Fin 8) (o : Offset), s.inflight = none → o.toNat = 0x020 + 4 * i.val →
    (s.hostWrite .word o v).hostRead .word o = (v, s.hostWrite .word o v) ∧
      (∀ j, j ≠ i → (s.hostWrite .word o v).args.get j = s.args.get j) ∧
      ∃ r, s.hostWrite .word o v = { s with args := r }

/-- irq is CTRL.IE AND STATUS.DONE at every instant; it rises at a completion while IE = 1 or when IE is set while
DONE = 1, and falls when DONE or IE is cleared, at an accepted command and at reset (`10_state.md` R39). -/
def Obligations.InterruptLevel : Prop :=
  ∀ s : State,
    (s.irq = ((s.readReg .ctrl).getLsbD 0 && (s.readReg .status).getLsbD 1)) ∧
    (∀ (i : Instr) (t : State), exec i s = .next t → t.irq = s.ctrl.ie) ∧
    (∀ v : Word, v.getLsbD 0 = true → (s.hostWrite .word 0x00008 v).irq = s.status.done) ∧
    (∀ v : Word, v.getLsbD 0 = false → (s.hostWrite .word 0x00008 v).irq = false) ∧
    (∀ v : Word, v.getLsbD 1 = true → (s.hostWrite .word 0x0000C v).irq = false) ∧
    (∀ v : Word, s.inflight = none → (s.hostWrite .word 0x00010 v).irq = false) ∧
    s.resetInput.irq = false ∧ s.powerOnReset.irq = false

/-- A host read has no side effect but setting ACCESS_ERR, exactly where `20_memory.md` R64, R65 and R67 drop it, and
repeated it returns the same value (R75). -/
def Obligations.HostReadEffects : Prop :=
  ∀ (s : State) (size : AccessSize) (o : Offset),
    ((o.toNat < 0x1000 ∧ (size.bytes ≠ 4 ∨ o.toNat % 4 ≠ 0)) ∨
        (0x10000 ≤ o.toNat ∧ (o.toNat % size.bytes ≠ 0 ∨ s.inflight ≠ none)) →
      (s.hostRead size o).2 = { s with status := { s.status with accessErr := true } }) ∧
    (¬ ((o.toNat < 0x1000 ∧ (size.bytes ≠ 4 ∨ o.toNat % 4 ≠ 0)) ∨
        (0x10000 ≤ o.toNat ∧ (o.toNat % size.bytes ≠ 0 ∨ s.inflight ≠ none))) →
      (s.hostRead size o).2 = s) ∧
    ((s.hostRead size o).2.hostRead size o).1 = (s.hostRead size o).1

/-! ### What every completion does and leaves alone -/

/-- An error completion changes only the fields of the completion record (`60_exceptions.md` R305): its code is that
of an error of R302, and the one effect beside the record is a draw made before a later check failed, by PS256_SIGN
(REP_OUT_OF_RANGE) or ES256_SIGN (NONCE_REJECTED). -/
def Obligations.ErrorsArePrecise : Prop :=
  ∀ (i : Instr) (s t : State), exec i s = .next t → t.status.err = true →
    ∃ (e : CmdError) (draws : Nat), t = failed s e.code draws ∧
      (draws ≠ 0 → (i = .ps256Sign ∧ e = .repOutOfRange) ∨ (i = .es256Sign ∧ e = .nonceRejected))

/-- FRAME of the sixteen commands with an output region: SHA256, HMAC_SHA256, B64U_ENCODE, B64U_DECODE,
EMSA_PKCS1_ENCODE, MGF1, EMSA_PSS_ENCODE, I2OSP, RSASP1, RSAVP1, RS256_SIGN, PS256_SIGN, EC_DOUBLE, EC_ADD,
EC_SCALAR_MUL, ES256_SIGN. Only the RESULT_LEN bytes at dst may change (`20_memory.md` R70), and of the registers only
DONE, ERR, VALID, ERRCODE and RESULT_LEN (`60_exceptions.md` R304). -/
def Obligations.StoringFrame : Prop :=
  ∀ (i : Instr) (s t : State) (c : InFlight) (dst : Word), s.inflight = some c → destination i c.args = some dst →
    exec i s = .next t →
    (∀ a, ¬ (dst.toNat ≤ a ∧ a < dst.toNat + t.resultLen.toNat) → t.dmem.byte a = s.dmem.byte a) ∧
      t.ctrl = s.ctrl ∧ t.cmdLast = s.cmdLast ∧ t.args = s.args ∧ t.readData = s.readData ∧ t.turns = s.turns ∧
      t.status.cmdOverrun = s.status.cmdOverrun ∧ t.status.accessErr = s.status.accessErr ∧
      t.inflight = none ∧ t.status.done = true ∧ t.status.valid = false

/-- FRAME of the six commands without an output region: HMAC_VERIFY, EMSA_PSS_VERIFY, RS256_VERIFY, PS256_VERIFY,
EC_ON_CURVE, ES256_VERIFY. No byte of DMEM changes, RESULT_LEN is 0, nothing is drawn, and of the registers only DONE,
ERR, VALID and ERRCODE may change besides (`20_memory.md` R70; `60_exceptions.md` R304). -/
def Obligations.VerifyFrame : Prop :=
  ∀ (i : Instr) (s t : State) (c : InFlight), s.inflight = some c → destination i c.args = none →
    exec i s = .next t →
    (∀ a, t.dmem.byte a = s.dmem.byte a) ∧ t.resultLen = 0 ∧ t.rngDraws = s.rngDraws ∧
      t.ctrl = s.ctrl ∧ t.cmdLast = s.cmdLast ∧ t.args = s.args ∧ t.readData = s.readData ∧ t.turns = s.turns ∧
      t.status.cmdOverrun = s.status.cmdOverrun ∧ t.status.accessErr = s.status.accessErr ∧
      t.inflight = none ∧ t.status.done = true ∧ (t.status.valid = true → t.status.err = false)

/-- No command changes a byte of its own input regions: keys and messages are only read (`20_memory.md` R70;
`44_rsa_engine.md` R212; `46_ecdsa.md` R265). -/
def Obligations.InputsAreKept : Prop :=
  ∀ (i : Instr) (s t : State) (c : InFlight), s.inflight = some c → exec i s = .next t →
    ∀ r ∈ inputs i c.args c.extRand, t.dmem.read r.1.toNat r.2 = s.dmem.read r.1.toNat r.2

/-- RESULT_LEN after a success is the outLen of the table of `30_encoding.md` R95, and 0 after an error (`10_state.md`
R27). -/
def Obligations.ResultLenIsOutLen : Prop :=
  ∀ (i : Instr) (s t : State) (c : InFlight), s.inflight = some c → exec i s = .next t →
    (t.status.err = true → t.resultLen = 0) ∧
      ∀ l, outLen i c.args = some l → t.status.err = false → t.resultLen.toNat = l

/-- VALID is 1 after a completion only if the command is one of the six that report a boolean and it succeeded
(`10_state.md` R32). -/
def Obligations.ValidOnlyFromVerify : Prop :=
  ∀ (i : Instr) (s t : State), exec i s = .next t → t.status.valid = true →
    t.status.err = false ∧ t.errcode = 0 ∧
      (i = .hmacVerify ∨ i = .emsaPssVerify ∨ i = .rs256Verify ∨ i = .ps256Verify ∨ i = .ecOnCurve ∨ i = .es256Verify)

/-- A command reads only its input regions (`20_memory.md` R70): with any DMEM that agrees on them it ends with the
same record and the same output bytes. -/
def Obligations.ReadsOnlyItsInputs : Prop :=
  ∀ (i : Instr) (s t : State) (c : InFlight) (m : Memory), s.inflight = some c →
    (∀ r ∈ inputs i c.args c.extRand, m.read r.1.toNat r.2 = s.dmem.read r.1.toNat r.2) → exec i s = .next t →
    ∃ t', exec i { s with dmem := m } = .next t' ∧ t'.status = t.status ∧ t'.errcode = t.errcode ∧
      t'.resultLen = t.resultLen ∧ t'.rngDraws = t.rngDraws ∧
      ∀ dst, destination i c.args = some dst →
        t'.dmem.read dst.toNat t.resultLen.toNat = t.dmem.read dst.toNat t.resultLen.toNat

/-- A command's outcome depends on the ARG values it names and, for three commands, on X, all as taken at issue:
ARGs it does not name are ignored (`30_encoding.md` R95), and CTRL and ARG as they are at the completion play no part
(`10_state.md` R33; `70_reset_and_hazards.md` R346). -/
def Obligations.OperandsTakenAtIssue : Prop :=
  ∀ (i : Instr) (s t : State) (c c' : InFlight) (k : Ctrl) (r : Args), s.inflight = some c →
    (mayDraw i = true → c'.extRand = c.extRand) → (∀ j ∈ namedArgs i c.extRand, c'.args.get j = c.args.get j) →
    exec i s = .next t →
    exec i { s with inflight := some c', ctrl := k, args := r } = .next { t with ctrl := k, args := r }

/-- Only EMSA_PSS_ENCODE, PS256_SIGN and ES256_SIGN draw, only when X = 0, and at most once, once and ECDSA_MAX_TRIES
times (`70_reset_and_hazards.md` R348); a command that does not draw is a function of DMEM and ARG (R349). -/
def Obligations.WhatDraws : Prop :=
  ∀ (i : Instr) (s t : State) (c : InFlight), s.inflight = some c → exec i s = .next t →
    (mayDraw i = false ∨ c.extRand = true → t.rngDraws = s.rngDraws ∧
      ∀ k, exec i { s with rngDraws := k } = .next { t with rngDraws := k }) ∧
    s.rngDraws ≤ t.rngDraws ∧ (i ≠ .es256Sign → t.rngDraws ≤ s.rngDraws + 1) ∧ t.rngDraws ≤ s.rngDraws + 64

/-- The checks before a command's own ones, in order (`60_exceptions.md` R306, steps 2 to 4): the RSA key length
(`44_rsa_engine.md` R200), the bounds of every region the ARG values name (`20_memory.md` R71), the overlap of the
output with an input (R72). The output region of B64U_DECODE, which its text sizes, is not among them. -/
def Obligations.OperandChecks : Prop :=
  ∀ (i : Instr) (s : State) (c : InFlight), s.inflight = some c →
    (takesRsaKey i = true → ¬ KeyLengthOk c.args → exec i s = .next (failed s 0x1202)) ∧
    ((takesRsaKey i = true → KeyLengthOk c.args) → ¬ RegionsInside i c.args c.extRand →
      exec i s = .next (failed s 0x1002)) ∧
    (RegionsInside i c.args c.extRand → ¬ OutputApart i c.args c.extRand → exec i s = .next (failed s 0x1102))

/-! ### Byte strings and integers -/

/-- OS2IP and I2OSP (`00_scope.md` R11). -/
def Obligations.BigEndianConversions : Prop :=
  (∀ x : Bytes, os2ip x = ((List.range x.length).map fun i => (x.getD i 0).toNat * 256 ^ (x.length - 1 - i)).sum) ∧
    ∀ x w : Nat, x < 256 ^ w → (i2osp x w).length = w ∧ os2ip (i2osp x w) = x ∧
      ∀ y : Bytes, y.length = w → os2ip y = x → y = i2osp x w

/-! ### HashEngine and HmacEngine -/

/-- SHA256(M) (`40_sha256.md` R121 to R127), the initial words of R125 and the constants of R126 written out. Each of
the eight lines of R126's table stands as one number, K_0 in the top 32 bits of the first. P is the padded message, of
N blocks; for each block i, W i is the schedule, v i t the working variables before round t, and H i the hash words
before the block. -/
def Obligations.DigestFollowsRounds : Prop :=
  ∀ m : Bytes, ∃ (P : Bytes) (N z : Nat) (H : Nat → HashWords) (W : Nat → Nat → Word) (v : Nat → Nat → HashWords)
      (K : Nat → Word),
    (∀ t < 64, K t = BitVec.ofNat 32 ([
        0x428a2f9871374491b5c0fbcfe9b5dba53956c25b59f111f1923f82a4ab1c5ed5,
        0xd807aa9812835b01243185be550c7dc372be5d7480deb1fe9bdc06a7c19bf174,
        0xe49b69c1efbe47860fc19dc6240ca1cc2de92c6f4a7484aa5cb0a9dc76f988da,
        0x983e5152a831c66db00327c8bf597fc7c6e00bf3d5a7914706ca635114292967,
        0x27b70a852e1b21384d2c6dfc53380d13650a7354766a0abb81c2c92e92722c85,
        0xa2bfe8a1a81a664bc24b8b70c76c51a3d192e819d6990624f40e3585106aa070,
        0x19a4c1161e376c082748774c34b0bcb5391c0cb34ed8aa4a5b9cca4f682e6ff3,
        0x748f82ee78a5636f84c878148cc7020890befffaa4506cebbef9a3f7c67178f2].getD (t / 8) 0 >>> (32 * (7 - t % 8)))) ∧
    z < 64 ∧ (55 : Int) ≡ m.length + z [ZMOD 64] ∧
    P = m ++ 0x80 :: List.replicate z 0x00 ++ i2osp (8 * m.length % 2 ^ 32) 8 ∧
    P.length = 64 * N ∧ N = (m.length + 9 + 63) / 64 ∧
    H 0 = ⟨0x6a09e667, 0xbb67ae85, 0x3c6ef372, 0xa54ff53a, 0x510e527f, 0x9b05688c, 0x1f83d9ab, 0x5be0cd19⟩ ∧
    (∀ i < N,
      (∀ t < 16, (W i t).toNat = os2ip ((P.drop (64 * i + 4 * t)).take 4)) ∧
      (∀ t, 16 ≤ t → t < 64 → W i t =
        ((W i (t - 2)).rotateRight 17 ^^^ (W i (t - 2)).rotateRight 19 ^^^ (W i (t - 2)) >>> 10) + W i (t - 7) +
          ((W i (t - 15)).rotateRight 7 ^^^ (W i (t - 15)).rotateRight 18 ^^^ (W i (t - 15)) >>> 3) + W i (t - 16)) ∧
      v i 0 = H i ∧
      (∀ t < 64, ∃ t1 t2 : Word,
        t1 = (v i t).h + ((v i t).e.rotateRight 6 ^^^ (v i t).e.rotateRight 11 ^^^ (v i t).e.rotateRight 25) +
          (((v i t).e &&& (v i t).f) ^^^ (~~~(v i t).e &&& (v i t).g)) + K t + W i t ∧
        t2 = ((v i t).a.rotateRight 2 ^^^ (v i t).a.rotateRight 13 ^^^ (v i t).a.rotateRight 22) +
          (((v i t).a &&& (v i t).b) ^^^ ((v i t).a &&& (v i t).c) ^^^ ((v i t).b &&& (v i t).c)) ∧
        v i (t + 1) = ⟨t1 + t2, (v i t).a, (v i t).b, (v i t).c, (v i t).d + t1, (v i t).e, (v i t).f, (v i t).g⟩) ∧
      H (i + 1) = ⟨(H i).a + (v i 64).a, (H i).b + (v i 64).b, (H i).c + (v i 64).c, (H i).d + (v i 64).d,
        (H i).e + (v i 64).e, (H i).f + (v i 64).f, (H i).g + (v i 64).g, (H i).h + (v i 64).h⟩) ∧
    sha256 m = ([(H N).a, (H N).b, (H N).c, (H N).d, (H N).e, (H N).f, (H N).g, (H N).h].map
      fun w => i2osp w.toNat 4).flatten

/-- SHA256 writes the digest, raw or as lowercase hex text, the high nibble first (`40_sha256.md` R128, R129). -/
def Obligations.Sha256Result : Prop :=
  ∀ (hex : Bool) (s : State) (c : InFlight), s.inflight = some c → ChecksPass (.sha256 hex) c.args c.extRand →
    exec (.sha256 hex) s = .next (succeeded s c.args.a2
      (if hex = true then hexOf (sha256 (textAt s c.args.a0 c.args.a1)) else sha256 (textAt s c.args.a0 c.args.a1)))

/-- HMAC_SHA256 writes HMAC(K, M); HMAC_VERIFY is true exactly when the tag operand equals it (`41_hmac.md` R140,
R143). -/
def Obligations.HmacResults : Prop :=
  ∀ (s : State) (c : InFlight), s.inflight = some c →
    (ChecksPass .hmacSha256 c.args c.extRand →
      exec .hmacSha256 s = .next (succeeded s c.args.a4
        (hmacText (textAt s c.args.a0 c.args.a1) (textAt s c.args.a2 c.args.a3)))) ∧
    (ChecksPass .hmacVerify c.args c.extRand →
      ∃ v, exec .hmacVerify s = .next (answered s v) ∧ (v = true ↔
        textAt s c.args.a4 c.args.a5 = hmacText (textAt s c.args.a0 c.args.a1) (textAt s c.args.a2 c.args.a3)))

/-! ### Base64UrlCodec -/

/-- B64U_ENCODE writes ⌈4L/3⌉ characters whose 6-bit values spell the input bits, zeros after them, and with PAD = 1
pads to a multiple of four (`42_base64url.md` R150, R151). -/
def Obligations.B64uEncodeResult : Prop :=
  ∀ (pad : Bool) (s : State) (c : InFlight), s.inflight = some c → ChecksPass (.b64uEncode pad) c.args c.extRand →
    ∃ vals : List Nat, (∀ v ∈ vals, v < 64) ∧ vals.length = (4 * c.args.a1.toNat + 2) / 3 ∧
      valueOf vals = intAt s c.args.a0 c.args.a1.toNat * 2 ^ (6 * vals.length - 8 * c.args.a1.toNat) ∧
      exec (.b64uEncode pad) s = .next (succeeded s c.args.a2
        (charsOf vals ++ List.replicate (if pad = true then (3 - c.args.a1.toNat % 3) % 3 else 0) 0x3D))

/-- B64U_DECODE, for a text that is `body` and then p times `=`: the first bad byte of the body decides (R153, check
1), then p > 2 and a negative length (checks 2 and 3), then the output region; a text that passes decodes to the first
8·outLen bits of its characters (`42_base64url.md` R153 to R155). -/
def Obligations.B64uDecodeResult : Prop :=
  ∀ (s : State) (c : InFlight) (body : Bytes) (p : Nat), s.inflight = some c → Inside c.args.a0 c.args.a1.toNat →
    textAt s c.args.a0 c.args.a1 = body ++ List.replicate p 0x3D → body.getLast? ≠ some 0x3D →
    (∀ (vals : List Nat) (b : Byte) (rest : Bytes), (∀ v ∈ vals, v < 64) → body = charsOf vals ++ b :: rest →
      b ∉ alphabet → exec .b64uDecode s = .next (failed s (if b = 0x3D then 0x0201 else 0x0101))) ∧
    ∀ vals : List Nat, (∀ v ∈ vals, v < 64) → body = charsOf vals →
      (2 < p ∨ 6 * c.args.a1.toNat / 8 < p → exec .b64uDecode s = .next (failed s 0x0201)) ∧
      (p ≤ 2 → p ≤ 6 * c.args.a1.toNat / 8 →
        (¬ Inside c.args.a2 (6 * c.args.a1.toNat / 8 - p) → exec .b64uDecode s = .next (failed s 0x1002)) ∧
        (Inside c.args.a2 (6 * c.args.a1.toNat / 8 - p) →
          Overlaps c.args.a2 (6 * c.args.a1.toNat / 8 - p) c.args.a0 c.args.a1.toNat →
          exec .b64uDecode s = .next (failed s 0x1102)) ∧
        (Inside c.args.a2 (6 * c.args.a1.toNat / 8 - p) →
          ¬ Overlaps c.args.a2 (6 * c.args.a1.toNat / 8 - p) c.args.a0 c.args.a1.toNat →
          ∃ out : Bytes, out.length = 6 * c.args.a1.toNat / 8 - p ∧
            os2ip out = valueOf vals / 2 ^ (6 * vals.length - 8 * out.length) ∧
            exec .b64uDecode s = .next (succeeded s c.args.a2 out)))

/-- Decoding an encoded string gives it back, padded or not, at every length (`42_base64url.md` R155 says so for the
lengths up to 100). -/
def Obligations.Base64RoundTrip : Prop :=
  ∀ (pad : Bool) (x : Bytes), b64Validate (b64Encode pad x) = .ok x.length ∧ b64Decode (b64Encode pad x) x.length = x

/-! ### RsaPadding -/

/-- EMSA_PKCS1_ENCODE: emLen < 62 is ENC_TOO_SHORT; otherwise it writes 00 01, emLen − 54 bytes of FF, 00 and the
DigestInfo (`43_rsa_padding.md` R170, R171). -/
def Obligations.EmsaPkcs1Result : Prop :=
  ∀ (s : State) (c : InFlight), s.inflight = some c → ChecksPass .emsaPkcs1Encode c.args c.extRand →
    (c.args.a1.toNat < 62 → exec .emsaPkcs1Encode s = .next (failed s 0x2304)) ∧
    (62 ≤ c.args.a1.toNat → exec .emsaPkcs1Encode s =
      .next (succeeded s c.args.a2 (pkcs1Text (s.dmem.read c.args.a0.toNat 32) c.args.a1.toNat)))

/-- MGF1 writes the mask, byte j being byte j mod 32 of SHA256(seed ∥ I2OSP(⌊j/32⌋, 4)), for every maskLen an ARG can
hold: MASK_TOO_LONG is never raised (`43_rsa_padding.md` R173, R174). -/
def Obligations.Mgf1Result : Prop :=
  ∀ (s : State) (c : InFlight), s.inflight = some c → ChecksPass .mgf1 c.args c.extRand →
    exec .mgf1 s = .next (succeeded s c.args.a3 (maskText (textAt s c.args.a0 c.args.a1) c.args.a2.toNat))

/-- EMSA_PSS_ENCODE: emLen < saltLen + 34 is ENC_ERROR, with no draw; otherwise it writes EncPSS with the salt operand
(X = 1) or one draw of the RNG (`43_rsa_padding.md` R175, R176). -/
def Obligations.EmsaPssEncodeResult : Prop :=
  ∀ (s : State) (c : InFlight), s.inflight = some c → ChecksPass .emsaPssEncode c.args c.extRand →
    ((c.args.a3.toNat + 7) / 8 < 34 + c.args.a2.toNat → exec .emsaPssEncode s = .next (failed s 0x2404)) ∧
    (34 + c.args.a2.toNat ≤ (c.args.a3.toNat + 7) / 8 →
      (c.extRand = true → exec .emsaPssEncode s = .next (succeeded s c.args.a4
        (pssText (textAt s c.args.a0 c.args.a1) (textAt s c.args.a5 c.args.a2) c.args.a3.toNat))) ∧
      (c.extRand = false → exec .emsaPssEncode s = .next (succeeded s c.args.a4
        (pssText (textAt s c.args.a0 c.args.a1) (rngBytes s.rngDraws c.args.a2.toNat) c.args.a3.toNat) 1)))

/-- EMSA_PSS_VERIFY is true exactly when EM is EncPSS of the message with some salt of saltLen bytes
(`43_rsa_padding.md` R175, R177). -/
def Obligations.EmsaPssVerifyResult : Prop :=
  ∀ (s : State) (c : InFlight), s.inflight = some c → ChecksPass .emsaPssVerify c.args c.extRand →
    ∃ v, exec .emsaPssVerify s = .next (answered s v) ∧ (v = true ↔
      34 + c.args.a2.toNat ≤ (c.args.a3.toNat + 7) / 8 ∧ ∃ salt : Bytes, salt.length = c.args.a2.toNat ∧
        textAt s c.args.a4 c.args.a5 = pssText (textAt s c.args.a0 c.args.a1) salt c.args.a3.toNat)

/-! ### RsaSignatureEngine -/

/-- I2OSP writes the value of the source in `width` bytes, or ends with INT_TOO_LARGE where it does not fit
(`44_rsa_engine.md` R204). -/
def Obligations.I2ospResult : Prop :=
  ∀ (s : State) (c : InFlight), s.inflight = some c → ChecksPass .i2osp c.args c.extRand →
    (256 ^ c.args.a2.toNat ≤ intAt s c.args.a0 c.args.a1.toNat → exec .i2osp s = .next (failed s 0x2104)) ∧
    (intAt s c.args.a0 c.args.a1.toNat < 256 ^ c.args.a2.toNat →
      ∃ out : Bytes, out.length = c.args.a2.toNat ∧ os2ip out = intAt s c.args.a0 c.args.a1.toNat ∧
        exec .i2osp s = .next (succeeded s c.args.a3 out))

/-- ModExp is b^x mod n (`44_rsa_engine.md` R201). -/
def Obligations.ModularExponentiation : Prop := ∀ b x n : Nat, 1 ≤ n → modExp b x n = b ^ x % n

/-- x⁻¹ mod m (`00_scope.md` R8). -/
def Obligations.ModularInverse : Prop :=
  ∀ x m : Nat, 2 ≤ m →
    (∀ y, modInverse x m = some y ↔ 1 ≤ y ∧ y ≤ m - 1 ∧ x * y % m = 1) ∧ (modInverse x m = none ↔ Nat.gcd x m ≠ 1)

/-- RSASP1 and RSAVP1: n = 0 is BAD_KEY, a representative m ≥ n is REP_OUT_OF_RANGE, and otherwise kLen bytes of
m^x mod n are written (`44_rsa_engine.md` R200 check 2, R202, R203, R205, R206). -/
def Obligations.RsaPrimitiveResults : Prop :=
  ∀ (i : Instr) (s : State) (c : InFlight) (n x m : Nat), i = .rsasp1 ∨ i = .rsavp1 → s.inflight = some c →
    ChecksPass i c.args c.extRand → n = intAt s c.args.a1 (kLen c.args) → x = intAt s c.args.a2 (kLen c.args) →
    m = intAt s c.args.a3 (kLen c.args) →
    (n = 0 → exec i s = .next (failed s 0x1202)) ∧
    (n ≠ 0 → n ≤ m → exec i s = .next (failed s 0x2004)) ∧
    (m < n → ∃ out : Bytes, out.length = kLen c.args ∧ os2ip out = m ^ x % n ∧
      exec i s = .next (succeeded s c.args.a4 out))

/-- RS256_SIGN: BAD_KEY (n = 0), ENC_TOO_SHORT, REP_OUT_OF_RANGE in order; otherwise it writes EM^d mod n for the
EMSA-PKCS1-v1_5 encoding EM of the message's digest (`44_rsa_engine.md` R207). -/
def Obligations.Rs256SignResult : Prop :=
  ∀ (s : State) (c : InFlight) (n d em : Nat), s.inflight = some c → ChecksPass .rs256Sign c.args c.extRand →
    n = intAt s c.args.a1 (kLen c.args) → d = intAt s c.args.a2 (kLen c.args) →
    em = os2ip (pkcs1Text (sha256 (textAt s c.args.a3 c.args.a4)) (kLen c.args)) →
    (n = 0 → exec .rs256Sign s = .next (failed s 0x1202)) ∧
    (n ≠ 0 → kLen c.args < 62 → exec .rs256Sign s = .next (failed s 0x2304)) ∧
    (n ≠ 0 → 62 ≤ kLen c.args → n ≤ em → exec .rs256Sign s = .next (failed s 0x2004)) ∧
    (62 ≤ kLen c.args → em < n → ∃ sig : Bytes, sig.length = kLen c.args ∧ os2ip sig = em ^ d % n ∧
      exec .rs256Sign s = .next (succeeded s c.args.a5 sig))

/-- RS256_VERIFY: BAD_KEY (n = 0), SIG_LENGTH, ENC_TOO_SHORT, REP_OUT_OF_RANGE in order; otherwise it is true exactly
when sig^e mod n is the EMSA-PKCS1-v1_5 encoding of the message's digest (`44_rsa_engine.md` R208). -/
def Obligations.Rs256VerifyResult : Prop :=
  ∀ (s : State) (c : InFlight) (n e em sig : Nat), s.inflight = some c → ChecksPass .rs256Verify c.args c.extRand →
    n = intAt s c.args.a1 (kLen c.args) → e = intAt s c.args.a2 (kLen c.args) →
    em = os2ip (pkcs1Text (sha256 (textAt s c.args.a3 c.args.a4)) (kLen c.args)) →
    sig = intAt s c.args.a5 (kLen c.args) →
    (n = 0 → exec .rs256Verify s = .next (failed s 0x1202)) ∧
    (n ≠ 0 → c.args.a6.toNat ≠ kLen c.args → exec .rs256Verify s = .next (failed s 0x1502)) ∧
    (n ≠ 0 → c.args.a6.toNat = kLen c.args → kLen c.args < 62 → exec .rs256Verify s = .next (failed s 0x2304)) ∧
    (n ≠ 0 → c.args.a6.toNat = kLen c.args → 62 ≤ kLen c.args → n ≤ sig →
      exec .rs256Verify s = .next (failed s 0x2004)) ∧
    (c.args.a6.toNat = kLen c.args → 62 ≤ kLen c.args → sig < n →
      ∃ v, exec .rs256Verify s = .next (answered s v) ∧ (v = true ↔ sig ^ e % n = em))

/-- PS256_SIGN: BAD_KEY (n = 0), ENC_ERROR, then with the salt (32 bytes, the operand when X = 1, else one draw) it
writes EM^d mod n for EM = EncPSS(M, 32, bitLength − 1, salt), or ends with REP_OUT_OF_RANGE, the draw made
(`44_rsa_engine.md` R209, R210). -/
def Obligations.Ps256SignResult : Prop :=
  ∀ (s : State) (c : InFlight) (n d em draws : Nat), s.inflight = some c → ChecksPass .ps256Sign c.args c.extRand →
    n = intAt s c.args.a1 (kLen c.args) → d = intAt s c.args.a2 (kLen c.args) →
    em = os2ip (pssText (textAt s c.args.a3 c.args.a4)
      (if c.extRand = true then s.dmem.read c.args.a6.toNat 32 else rngBytes s.rngDraws 32) (c.args.a0.toNat - 1)) →
    draws = (if c.extRand = true then 0 else 1) →
    (n = 0 → exec .ps256Sign s = .next (failed s 0x1202)) ∧
    (n ≠ 0 → kLen c.args < 66 → exec .ps256Sign s = .next (failed s 0x2404)) ∧
    (n ≠ 0 → 66 ≤ kLen c.args → n ≤ em → exec .ps256Sign s = .next (failed s 0x2004 draws)) ∧
    (66 ≤ kLen c.args → em < n → ∃ sig : Bytes, sig.length = kLen c.args ∧ os2ip sig = em ^ d % n ∧
      exec .ps256Sign s = .next (succeeded s c.args.a5 sig draws)) ∧
    (66 ≤ kLen c.args → em < 2 ^ (c.args.a0.toNat - 1))

/-- PS256_VERIFY: BAD_KEY (n = 0), SIG_LENGTH, REP_OUT_OF_RANGE in order; otherwise it is true exactly when sig^e mod
n, in kLen bytes, is EncPSS(M, 32, bitLength − 1, salt) for some salt (`44_rsa_engine.md` R209, R211). -/
def Obligations.Ps256VerifyResult : Prop :=
  ∀ (s : State) (c : InFlight) (n e sig : Nat), s.inflight = some c → ChecksPass .ps256Verify c.args c.extRand →
    n = intAt s c.args.a1 (kLen c.args) → e = intAt s c.args.a2 (kLen c.args) →
    sig = intAt s c.args.a5 (kLen c.args) →
    (n = 0 → exec .ps256Verify s = .next (failed s 0x1202)) ∧
    (n ≠ 0 → c.args.a6.toNat ≠ kLen c.args → exec .ps256Verify s = .next (failed s 0x1502)) ∧
    (n ≠ 0 → c.args.a6.toNat = kLen c.args → n ≤ sig → exec .ps256Verify s = .next (failed s 0x2004)) ∧
    (c.args.a6.toNat = kLen c.args → sig < n →
      ∃ v, exec .ps256Verify s = .next (answered s v) ∧ (v = true ↔ 66 ≤ kLen c.args ∧
        ∃ salt : Bytes, salt.length = 32 ∧
          sig ^ e % n = os2ip (pssText (textAt s c.args.a3 c.args.a4) salt (c.args.a0.toNat - 1))))

/-- RS256_VERIFY accepts what RS256_SIGN wrote, for exponents d and e with x^(d·e) ≡ x mod n: the signature is where
the signing command put it, and key and message are the same operands. -/
def Obligations.Rs256VerifiesItsOwn : Prop :=
  ∀ (s t u : State) (c k : InFlight), s.inflight = some c → exec .rs256Sign s = .next t → t.status.err = false →
    u.inflight = some k → u.dmem = t.dmem → RegionsInside .rs256Verify k.args k.extRand →
    k.args.a0 = c.args.a0 → k.args.a1 = c.args.a1 → k.args.a3 = c.args.a3 → k.args.a4 = c.args.a4 →
    k.args.a5 = c.args.a5 → k.args.a6.toNat = kLen c.args →
    (∀ x, x < intAt s c.args.a1 (kLen c.args) →
      x ^ (intAt s c.args.a2 (kLen c.args) * intAt u k.args.a2 (kLen c.args)) % intAt s c.args.a1 (kLen c.args) = x) →
    exec .rs256Verify u = .next (answered u true)

/-- PS256_VERIFY accepts what PS256_SIGN wrote, whatever the salt, for exponents d and e with x^(d·e) ≡ x mod n
(`44_rsa_engine.md` R210: "both independently verifying true"). -/
def Obligations.Ps256VerifiesItsOwn : Prop :=
  ∀ (s t u : State) (c k : InFlight), s.inflight = some c → exec .ps256Sign s = .next t → t.status.err = false →
    u.inflight = some k → u.dmem = t.dmem → RegionsInside .ps256Verify k.args k.extRand →
    k.args.a0 = c.args.a0 → k.args.a1 = c.args.a1 → k.args.a3 = c.args.a3 → k.args.a4 = c.args.a4 →
    k.args.a5 = c.args.a5 → k.args.a6.toNat = kLen c.args →
    (∀ x, x < intAt s c.args.a1 (kLen c.args) →
      x ^ (intAt s c.args.a2 (kLen c.args) * intAt u k.args.a2 (kLen c.args)) % intAt s c.args.a1 (kLen c.args) = x) →
    exec .ps256Verify u = .next (answered u true)

/-! ### EcPointArithmetic -/

/-- EC_DOUBLE: bytes that spell no point are BAD_POINT, y = 0 is NO_INVERSE, and otherwise it writes double(P)
(`45_ec_point.md` R231 to R233). -/
def Obligations.EcDoubleResult : Prop :=
  ∀ (s : State) (c : InFlight), s.inflight = some c → ChecksPass .ecDouble c.args c.extRand →
    ((∀ p, ¬ Spells (s.dmem.read c.args.a0.toNat 65) p) → exec .ecDouble s = .next (failed s 0x1302)) ∧
    ∀ p, Spells (s.dmem.read c.args.a0.toNat 65) p →
      (∀ x, p = .affine x 0 → exec .ecDouble s = .next (failed s 0x2504)) ∧
      ((∀ x, p ≠ .affine x 0) →
        ∃ r, IsDouble p r ∧ exec .ecDouble s = .next (succeeded s c.args.a1 (pointBytes r)))

/-- EC_ADD: bytes that spell no point are BAD_POINT, equal x with y neither equal nor opposite is NO_INVERSE, and
otherwise it writes add(P, Q) (`45_ec_point.md` R231, R232, R234). -/
def Obligations.EcAddResult : Prop :=
  ∀ (s : State) (c : InFlight), s.inflight = some c → ChecksPass .ecAdd c.args c.extRand →
    ((∀ p, ¬ Spells (s.dmem.read c.args.a0.toNat 65) p) ∨ (∀ q, ¬ Spells (s.dmem.read c.args.a1.toNat 65) q) →
      exec .ecAdd s = .next (failed s 0x1302)) ∧
    ∀ p q, Spells (s.dmem.read c.args.a0.toNat 65) p → Spells (s.dmem.read c.args.a1.toNat 65) q →
      (Uncovered p q → exec .ecAdd s = .next (failed s 0x2504)) ∧
      (¬ Uncovered p q →
        ∃ r, IsSum p q r ∧ exec .ecAdd s = .next (succeeded s c.args.a2 (pointBytes r)))

/-- EC_SCALAR_MUL: bytes that spell no point are BAD_POINT; it writes the R of the double-and-add loop for every k
below 2^256 where the loop has one, and ends with NO_INVERSE where it has none (`45_ec_point.md` R235, R239). -/
def Obligations.EcScalarMulResult : Prop :=
  ∀ (s : State) (c : InFlight), s.inflight = some c → ChecksPass .ecScalarMul c.args c.extRand →
    ((∀ p, ¬ Spells (s.dmem.read c.args.a0.toNat 65) p) → exec .ecScalarMul s = .next (failed s 0x1302)) ∧
    ∀ p, Spells (s.dmem.read c.args.a0.toNat 65) p →
      (∀ r, Multiple p (intAt s c.args.a1 32) r →
        exec .ecScalarMul s = .next (succeeded s c.args.a2 (pointBytes r))) ∧
      ((∀ r, ¬ Multiple p (intAt s c.args.a1 32) r) → exec .ecScalarMul s = .next (failed s 0x2504))

/-- EC_ON_CURVE: a tag other than 0x00 and 0x04 is BAD_POINT; otherwise it is true exactly for the bytes of an affine
point with coordinates below q on the curve (`45_ec_point.md` R236, R240). -/
def Obligations.EcOnCurveResult : Prop :=
  ∀ (s : State) (c : InFlight), s.inflight = some c → ChecksPass .ecOnCurve c.args c.extRand →
    (s.dmem.byte c.args.a0.toNat ≠ 0x00 → s.dmem.byte c.args.a0.toNat ≠ 0x04 →
      exec .ecOnCurve s = .next (failed s 0x1302)) ∧
    (s.dmem.byte c.args.a0.toNat = 0x00 ∨ s.dmem.byte c.args.a0.toNat = 0x04 →
      ∃ v, exec .ecOnCurve s = .next (answered s v) ∧ (v = true ↔
        ∃ x y, Spells (s.dmem.read c.args.a0.toNat 65) (.affine x y) ∧ OnCurve x y))

/-- For the curve of `45_ec_point.md` R230, its parameters written out, and operands on it or Identity, double, add and scalarMultiply never raise NO_INVERSE and give a point of
the curve or Identity; only EC_DOUBLE, EC_ADD and EC_SCALAR_MUL can end with NO_INVERSE (`45_ec_point.md` R241). -/
def Obligations.CurvePointsNeverFail : Prop :=
  (curveQ = 0xffffffff00000001000000000000000000000000ffffffffffffffffffffffff ∧ curveA = curveQ - 3 ∧
    curveB = 0x5ac635d8aa3a93e7b3ebbd55769886bc651d06b0cc53b0f63bce3c3e27d2604b ∧
    curveN = 0xffffffff00000000ffffffffffffffffbce6faada7179e84f3b9cac2fc632551 ∧
    curveG = .affine 0x6b17d1f2e12c4247f8bce6e563a440f277037d812deb33a0f4a13945d898c296
      0x4fe342e2fe1a7f9b8ee7eb4a7c0f9e162bce33576b315ececbb6406837bf51f5) ∧
  (∀ p, CurvePoint p → ∃ r, pointDouble p = .ok r ∧ CurvePoint r) ∧
    (∀ p q, CurvePoint p → CurvePoint q → ∃ r, pointAdd p q = .ok r ∧ CurvePoint r) ∧
    (∀ p k, CurvePoint p → ∃ r, scalarMultiply p k = .ok r ∧ CurvePoint r) ∧
    ∀ (i : Instr) (s t : State), i ≠ .ecDouble → i ≠ .ecAdd → i ≠ .ecScalarMul → exec i s = .next t → t.errcode ≠ 0x2504

/-! ### EcdsaSignatureEngine -/

/-- ES256_SIGN: a key outside [1, n − 1] is BAD_KEY, an external nonce outside it BAD_NONCE. With the nonces k_0,
k_1, ... (the operand alone when X = 1, else ECDSA_MAX_TRIES draws) it writes the signature of the first nonce that is
not rejected, or ends with NONCE_REJECTED when all are (`46_ecdsa.md` R260 to R263). That a nonce with [k]G = Identity,
which cannot occur, would be rejected is the model's choice (log entry 8); the draws are the free values of log entry
2. -/
def Obligations.Es256SignResult : Prop :=
  ∀ (s : State) (c : InFlight) (d e tries : Nat) (nonce : Nat → Nat), s.inflight = some c →
    ChecksPass .es256Sign c.args c.extRand → d = intAt s c.args.a0 32 →
    e = digestInt (textAt s c.args.a1 c.args.a2) → tries = (if c.extRand = true then 1 else 64) →
    (∀ j, nonce j = if c.extRand = true then intAt s c.args.a4 32 else rngScalar curveN (s.rngDraws + j)) →
    (d = 0 ∨ curveN ≤ d → exec .es256Sign s = .next (failed s 0x1202)) ∧
    (d ≠ 0 → d < curveN → c.extRand = true → nonce 0 = 0 ∨ curveN ≤ nonce 0 →
      exec .es256Sign s = .next (failed s 0x1402)) ∧
    (d ≠ 0 → d < curveN → nonce 0 ≠ 0 → nonce 0 < curveN →
      (∀ r g, SignsWith d e (nonce 0) r g → ∃ R S : Bytes, R.length = 32 ∧ os2ip R = r ∧ S.length = 32 ∧ os2ip S = g ∧
        exec .es256Sign s = .next (succeeded s c.args.a3 (R ++ S) (if c.extRand = true then 0 else 1))) ∧
      ((∃ j < tries, (∀ t < j, Rejects d e (nonce t)) ∧ ∃ r g, ∃ R S : Bytes, SignsWith d e (nonce j) r g ∧
          R.length = 32 ∧ os2ip R = r ∧ S.length = 32 ∧ os2ip S = g ∧
          exec .es256Sign s = .next (succeeded s c.args.a3 (R ++ S) (if c.extRand = true then 0 else j + 1))) ∨
        ((∀ t < tries, Rejects d e (nonce t)) ∧
          exec .es256Sign s = .next (failed s 0x2604 (if c.extRand = true then 0 else 64)))))

/-- ES256_VERIFY: SIG_LENGTH, then BAD_POINT (tag only); otherwise it is true exactly when r and s are in [1, n − 1],
the key is a point of the curve and [u1]G + [u2]Q is an affine point whose x mod n is r (`46_ecdsa.md` R264). -/
def Obligations.Es256VerifyResult : Prop :=
  ∀ (s : State) (c : InFlight), s.inflight = some c → ChecksPass .es256Verify c.args c.extRand →
    (c.args.a4.toNat ≠ 64 → exec .es256Verify s = .next (failed s 0x1502)) ∧
    (c.args.a4.toNat = 64 → s.dmem.byte c.args.a0.toNat ≠ 0x00 → s.dmem.byte c.args.a0.toNat ≠ 0x04 →
      exec .es256Verify s = .next (failed s 0x1302)) ∧
    (c.args.a4.toNat = 64 → s.dmem.byte c.args.a0.toNat = 0x00 ∨ s.dmem.byte c.args.a0.toNat = 0x04 →
      ∃ v, exec .es256Verify s = .next (answered s v) ∧ (v = true ↔
        Accepts (s.dmem.read c.args.a0.toNat 65) (digestInt (textAt s c.args.a1 c.args.a2)) (intAt s c.args.a3 32)
          (os2ip (s.dmem.read (c.args.a3.toNat + 32) 32))))

end
end

