-- ==== Sys2Proof/Laws/Lengths.lean ====
section
/-! SUPPORT. The lengths of the byte strings the engines form. -/

namespace Sys2Proof.Machine

@[simp] theorem zeros_length (n : Nat) : (zeros n).length = n := by simp [zeros, repeatByte]

@[simp] theorem repeatByte_length (b : Byte) (n : Nat) : (repeatByte b n).length = n := by simp [repeatByte]

@[simp] theorem xorBytes_length (x y : Bytes) : (xorBytes x y).length = min x.length y.length := by simp [xorBytes]

@[simp] theorem i2osp_length (x w : Nat) : (i2osp x w).length = w := by
  induction w generalizing x with
  | zero => rfl
  | succ w ih => simp [i2osp, ih]

/-- A digest has 32 bytes (`40_sha256.md` R127). -/
@[simp] theorem sha256_length (m : Bytes) : (sha256 m).length = 32 := by simp [sha256, HashWords.digest]

/-- The hex text of a string has two characters a byte (`40_sha256.md` R129). -/
@[simp] theorem hexText_length (d : Bytes) : (hexText d).length = 2 * d.length := by
  induction d with
  | nil => rfl
  | cons b d ih =>
    rw [show hexText (b :: d) = [hexChar (b.toNat / 16), hexChar (b.toNat % 16)] ++ hexText d from rfl]
    simp only [List.length_append, List.length_cons, List.length_nil, ih]
    omega

/-- A tag has 32 bytes (`41_hmac.md` R140). -/
@[simp] theorem hmac_length (k m : Bytes) : (hmac k m).length = 32 := by simp [hmac]

@[simp] theorem clearTopBits_length (t : Nat) (x : Bytes) : (clearTopBits t x).length = x.length := by
  cases x <;> rfl

theorem length_flatMap_const {α : Type} (l : List α) (f : α → Bytes) (k : Nat) (h : ∀ a ∈ l, (f a).length = k) :
    (l.flatMap f).length = l.length * k := by
  induction l with
  | nil => simp
  | cons a l ih =>
    rw [List.flatMap_cons, List.length_append, h a List.mem_cons_self,
      ih fun b hb => h b (List.mem_cons_of_mem a hb), List.length_cons, Nat.succ_mul, Nat.add_comm]

/-- A mask has the length asked for (`43_rsa_padding.md` R173). -/
@[simp] theorem mgf1_length (seed : Bytes) (n : Nat) : (mgf1 seed n).length = n := by
  rw [mgf1, List.length_take, length_flatMap_const _ _ 32 (by simp), List.length_range]
  omega

/-- A point has 65 bytes (`45_ec_point.md` R231). -/
@[simp] theorem encPoint_length (p : Point) : (encPoint p).length = 65 := by
  cases p <;> simp [encPoint]

/-- A signature has 64 bytes (`46_ecdsa.md` R261). -/
@[simp] theorem es256SignatureBytes_length (sig : Nat × Nat) : (es256SignatureBytes sig).length = 64 := by
  simp [es256SignatureBytes]

/-- An EMSA-PKCS1-v1_5 encoding of a digest has the length asked for (`43_rsa_padding.md` R171). -/
theorem encPkcs1_length {d em : Bytes} {n : Nat} (hd : d.length = 32) (h : encPkcs1 d n = .ok em) : em.length = n := by
  unfold encPkcs1 at h
  split at h
  · cases h
  · cases h
    simp only [digestInfo, digestInfoPrefix, List.length_append, List.length_cons, List.length_nil, repeatByte_length,
      hd]
    omega

/-- An EMSA-PSS encoding has emLen bytes (`43_rsa_padding.md` R175). -/
theorem encPss_length {m salt em : Bytes} {sLen modBits : Nat} (hs : salt.length = sLen)
    (h : encPss m sLen modBits salt = .ok em) : em.length = pssEmLen modBits := by
  unfold encPss at h
  simp only at h
  split at h
  · cases h
  · cases h
    simp only [List.length_append, clearTopBits_length, xorBytes_length, zeros_length, List.length_cons,
      List.length_nil, mgf1_length, pssDigest, sha256_length, hs, hLen] at *
    omega

@[simp] theorem bytesOfBits_length (n : Nat) (bits : List Bool) : (bytesOfBits n bits).length = n := by
  induction n generalizing bits with
  | zero => rfl
  | succ n ih => simp [bytesOfBits, ih]

/-- A decoded string has the output length (`42_base64url.md` R154). -/
@[simp] theorem b64Decode_length (s : Bytes) (n : Nat) : (b64Decode s n).length = n := by simp [b64Decode]

@[simp] theorem rngBytes_length (draw c : Nat) : (rngBytes draw c).length = c := by simp [rngBytes]

/-- A drawn scalar is in [1, order − 1] (`70_reset_and_hazards.md` R348). -/
theorem rngScalar_range (order draw : Nat) (h : 2 ≤ order) :
    1 ≤ rngScalar order draw ∧ rngScalar order draw ≤ order - 1 := by
  have := Nat.mod_lt (Config.rngInteger draw) (show order - 1 > 0 by omega)
  unfold rngScalar
  omega

end Sys2Proof.Machine
end

