-- ==== Sys2Proof/Laws/Memory.lean ====
section
/-! SUPPORT. DMEM: what reading gives after a write, what a write leaves alone, and that every memory operation keeps
the canonical form. -/

namespace Sys2Proof.Machine

theorem lookupCell_insertCell_same (cells : List Host.Cell) (i : Nat) (v : Byte) :
    lookupCell (insertCell cells i v) i = some v := by
  induction cells with
  | nil => simp [insertCell, lookupCell]
  | cons c rest ih =>
    obtain ⟨a, b⟩ := c
    simp only [insertCell]
    split
    · simp [lookupCell]
    · split
      · simp [lookupCell]
      · rename_i h1 h2
        simp [lookupCell, ih, show a ≠ i from fun h => h2 h.symm]

theorem lookupCell_insertCell_other (cells : List Host.Cell) (i j : Nat) (v : Byte) (h : j ≠ i) :
    lookupCell (insertCell cells i v) j = lookupCell cells j := by
  induction cells with
  | nil => simp [insertCell, lookupCell, h.symm]
  | cons c rest ih =>
    obtain ⟨a, b⟩ := c
    simp only [insertCell]
    split
    · simp [lookupCell, h.symm]
    · split
      · rename_i h1 h2
        subst h2
        simp [lookupCell, h.symm]
      · simp [lookupCell, ih]

/-- A byte read after it was written is the byte written. -/
@[simp] theorem Memory.byte_writeByte_same (m : Memory) (i : Nat) (v : Byte) : (m.writeByte i v).byte i = v := by
  simp [Memory.byte, Memory.writeByte, lookupCell_insertCell_same]

/-- A write of one byte leaves every other byte alone. -/
theorem Memory.byte_writeByte_other (m : Memory) (i j : Nat) (v : Byte) (h : j ≠ i) :
    (m.writeByte i v).byte j = m.byte j := by
  simp [Memory.byte, Memory.writeByte, lookupCell_insertCell_other _ _ _ _ h]

@[simp] theorem Memory.write_nil (m : Memory) (addr : Nat) : m.write addr [] = m := rfl

theorem Memory.write_cons (m : Memory) (addr : Nat) (b : Byte) (bs : Bytes) :
    m.write addr (b :: bs) = (m.writeByte addr b).write (addr + 1) bs := rfl

@[simp] theorem Memory.writeByte_powerOn (m : Memory) (i : Nat) (v : Byte) : (m.writeByte i v).powerOn = m.powerOn := rfl

@[simp] theorem Memory.write_powerOn (m : Memory) (addr : Nat) (bs : Bytes) : (m.write addr bs).powerOn = m.powerOn := by
  induction bs generalizing m addr with
  | nil => rfl
  | cons b bs ih => simp [Memory.write_cons, ih]

/-- MemWrite leaves every byte outside [addr, addr + |bs|) alone. -/
theorem Memory.byte_write_outside (m : Memory) (addr : Nat) (bs : Bytes) (j : Nat)
    (h : j < addr ∨ addr + bs.length ≤ j) : (m.write addr bs).byte j = m.byte j := by
  induction bs generalizing m addr with
  | nil => rfl
  | cons b bs ih =>
    simp only [List.length_cons] at h
    rw [Memory.write_cons, ih _ _ (by omega), Memory.byte_writeByte_other _ _ _ _ (by omega)]

/-- MemWrite sets byte k of [addr, addr + |bs|) to bs[k]. -/
theorem Memory.byte_write_inside (m : Memory) (addr : Nat) (bs : Bytes) (k : Nat) (h : k < bs.length) :
    (m.write addr bs).byte (addr + k) = bs[k] := by
  induction bs generalizing m addr k with
  | nil => exact absurd h (Nat.not_lt_zero _)
  | cons b bs ih =>
    rw [Memory.write_cons]
    cases k with
    | zero => rw [Nat.add_zero, Memory.byte_write_outside _ _ _ _ (by omega)]; simp
    | succ k =>
      simp only [List.length_cons] at h
      rw [show addr + (k + 1) = addr + 1 + k by omega, ih _ _ k (by omega)]
      rfl

@[simp] theorem Memory.read_length (m : Memory) (addr n : Nat) : (m.read addr n).length = n := by
  simp [Memory.read]

theorem Memory.read_getElem (m : Memory) (addr n k : Nat) (h : k < (m.read addr n).length) :
    (m.read addr n)[k] = m.byte (addr + k) := by
  simp [Memory.read]

/-- Two memories that agree on [addr, addr + n) give the same MemRead. -/
theorem Memory.read_congr (m m' : Memory) (addr n : Nat)
    (h : ∀ k < n, m'.byte (addr + k) = m.byte (addr + k)) : m'.read addr n = m.read addr n := by
  unfold Memory.read
  exact List.map_congr_left fun k hk => h k (List.mem_range.1 hk)

/-- MemRead of what MemWrite wrote. -/
theorem Memory.read_write_same (m : Memory) (addr : Nat) (bs : Bytes) :
    (m.write addr bs).read addr bs.length = bs := by
  apply List.ext_getElem (by simp)
  intro k h1 h2
  rw [Memory.read_getElem, Memory.byte_write_inside _ _ _ _ h2]

/-- MemWrite leaves a region that it does not touch as it reads. -/
theorem Memory.read_write_outside (m : Memory) (addr : Nat) (bs : Bytes) (a n : Nat)
    (h : a + n ≤ addr ∨ addr + bs.length ≤ a ∨ n = 0) : (m.write addr bs).read a n = m.read a n :=
  Memory.read_congr _ _ _ _ fun k hk => Memory.byte_write_outside _ _ _ _ (by omega)

/-! ### The canonical form -/

theorem cellsSortedFrom_mono {low low' : Nat} {cells : List Host.Cell} (hle : low' ≤ low)
    (h : cellsSortedFrom low cells = true) : cellsSortedFrom low' cells = true := by
  cases cells with
  | nil => rfl
  | cons c rest =>
    simp only [cellsSortedFrom, Bool.and_eq_true, decide_eq_true_eq] at h ⊢
    exact ⟨⟨by omega, h.1.2⟩, h.2⟩

theorem cellsSortedFrom_insertCell (cells : List Host.Cell) (low i : Nat) (v : Byte) (hlow : low ≤ i)
    (hi : i < Config.dmemBytes) (h : cellsSortedFrom low cells = true) :
    cellsSortedFrom low (insertCell cells i v) = true := by
  induction cells generalizing low with
  | nil => simp [insertCell, cellsSortedFrom, hlow, hi]
  | cons c rest ih =>
    obtain ⟨a, b⟩ := c
    simp only [cellsSortedFrom, Bool.and_eq_true, decide_eq_true_eq] at h
    obtain ⟨⟨hla, had⟩, hrest⟩ := h
    simp only [insertCell]
    split
    · simp only [cellsSortedFrom, Bool.and_eq_true, decide_eq_true_eq]
      exact ⟨⟨hlow, hi⟩, ⟨by omega, had⟩, hrest⟩
    · split
      · rename_i h2
        subst h2
        simp [cellsSortedFrom, hla, had, hrest]
      · simp only [cellsSortedFrom, Bool.and_eq_true, decide_eq_true_eq]
        exact ⟨⟨hla, had⟩, ih (a + 1) (by omega) hrest⟩

/-- Writing a byte of DMEM keeps the canonical form. -/
theorem Memory.wf_writeByte (m : Memory) (i : Nat) (v : Byte) (hi : i < Config.dmemBytes) (h : m.wf = true) :
    (m.writeByte i v).wf = true :=
  cellsSortedFrom_insertCell m.cells 0 i v (Nat.zero_le _) hi h

/-- MemWrite inside DMEM keeps the canonical form. -/
theorem Memory.wf_write (m : Memory) (addr : Nat) (bs : Bytes) (hin : addr + bs.length ≤ Config.dmemBytes)
    (h : m.wf = true) : (m.write addr bs).wf = true := by
  induction bs generalizing m addr with
  | nil => exact h
  | cons b bs ih =>
    simp only [List.length_cons] at hin
    exact ih _ _ (by omega) (Memory.wf_writeByte _ _ _ (by omega) h)

/-- DMEM after a power-on has the canonical form. -/
@[simp] theorem Memory.wf_atPowerOn (n : Nat) : (Memory.atPowerOn n).wf = true := rfl

/-- DMEM after reset has the canonical form. -/
theorem reset_dmem_wf : State.reset.dmem.wf = true := rfl

end Sys2Proof.Machine
end

