-- ==== Sys2Proof/Laws/State.lean ====
section
/-! SUPPORT. What each update of the state leaves in each field: one lemma per field per update, true by `rfl`. -/

namespace Sys2Proof.Machine

/-! ### `State.accept` -/

@[simp] theorem State.accept_ctrl (s : State) (w : Word) : (s.accept w).ctrl = s.ctrl := rfl
@[simp] theorem State.accept_status (s : State) (w : Word) : (s.accept w).status = { s.status with done := false, err := false, valid := false } := rfl
@[simp] theorem State.accept_cmdLast (s : State) (w : Word) : (s.accept w).cmdLast = w := rfl
@[simp] theorem State.accept_errcode (s : State) (w : Word) : (s.accept w).errcode = 0 := rfl
@[simp] theorem State.accept_resultLen (s : State) (w : Word) : (s.accept w).resultLen = 0 := rfl
@[simp] theorem State.accept_args (s : State) (w : Word) : (s.accept w).args = s.args := rfl
@[simp] theorem State.accept_inflight (s : State) (w : Word) : (s.accept w).inflight = some { word := w, args := s.args, extRand := s.ctrl.extRand } := rfl
@[simp] theorem State.accept_dmem (s : State) (w : Word) : (s.accept w).dmem = s.dmem := rfl
@[simp] theorem State.accept_rngDraws (s : State) (w : Word) : (s.accept w).rngDraws = s.rngDraws := rfl
@[simp] theorem State.accept_readData (s : State) (w : Word) : (s.accept w).readData = s.readData := rfl
@[simp] theorem State.accept_turns (s : State) (w : Word) : (s.accept w).turns = s.turns := rfl

/-! ### `State.completeOk` -/

@[simp] theorem State.completeOk_ctrl (s : State) (o : Output) : (s.completeOk o).ctrl = s.ctrl := rfl
@[simp] theorem State.completeOk_status (s : State) (o : Output) : (s.completeOk o).status = { s.status with done := true, err := false, valid := o.valid } := rfl
@[simp] theorem State.completeOk_cmdLast (s : State) (o : Output) : (s.completeOk o).cmdLast = s.cmdLast := rfl
@[simp] theorem State.completeOk_errcode (s : State) (o : Output) : (s.completeOk o).errcode = 0 := rfl
@[simp] theorem State.completeOk_resultLen (s : State) (o : Output) : (s.completeOk o).resultLen = BitVec.ofNat 32 o.bytes.length := rfl
@[simp] theorem State.completeOk_args (s : State) (o : Output) : (s.completeOk o).args = s.args := rfl
@[simp] theorem State.completeOk_inflight (s : State) (o : Output) : (s.completeOk o).inflight = none := rfl
@[simp] theorem State.completeOk_dmem (s : State) (o : Output) : (s.completeOk o).dmem = s.dmem.write o.dst o.bytes := rfl
@[simp] theorem State.completeOk_rngDraws (s : State) (o : Output) : (s.completeOk o).rngDraws = s.rngDraws := rfl
@[simp] theorem State.completeOk_readData (s : State) (o : Output) : (s.completeOk o).readData = s.readData := rfl
@[simp] theorem State.completeOk_turns (s : State) (o : Output) : (s.completeOk o).turns = s.turns := rfl

/-! ### `State.completeError` -/

@[simp] theorem State.completeError_ctrl (s : State) (e : CmdError) : (s.completeError e).ctrl = s.ctrl := rfl
@[simp] theorem State.completeError_status (s : State) (e : CmdError) : (s.completeError e).status = { s.status with done := true, err := true, valid := false } := rfl
@[simp] theorem State.completeError_cmdLast (s : State) (e : CmdError) : (s.completeError e).cmdLast = s.cmdLast := rfl
@[simp] theorem State.completeError_errcode (s : State) (e : CmdError) : (s.completeError e).errcode = e.code := rfl
@[simp] theorem State.completeError_resultLen (s : State) (e : CmdError) : (s.completeError e).resultLen = 0 := rfl
@[simp] theorem State.completeError_args (s : State) (e : CmdError) : (s.completeError e).args = s.args := rfl
@[simp] theorem State.completeError_inflight (s : State) (e : CmdError) : (s.completeError e).inflight = none := rfl
@[simp] theorem State.completeError_dmem (s : State) (e : CmdError) : (s.completeError e).dmem = s.dmem := rfl
@[simp] theorem State.completeError_rngDraws (s : State) (e : CmdError) : (s.completeError e).rngDraws = s.rngDraws := rfl
@[simp] theorem State.completeError_readData (s : State) (e : CmdError) : (s.completeError e).readData = s.readData := rfl
@[simp] theorem State.completeError_turns (s : State) (e : CmdError) : (s.completeError e).turns = s.turns := rfl

/-! ### `State.dropAccess` -/

@[simp] theorem State.dropAccess_ctrl (s : State) : (s.dropAccess).ctrl = s.ctrl := rfl
@[simp] theorem State.dropAccess_status (s : State) : (s.dropAccess).status = { s.status with accessErr := true } := rfl
@[simp] theorem State.dropAccess_cmdLast (s : State) : (s.dropAccess).cmdLast = s.cmdLast := rfl
@[simp] theorem State.dropAccess_errcode (s : State) : (s.dropAccess).errcode = s.errcode := rfl
@[simp] theorem State.dropAccess_resultLen (s : State) : (s.dropAccess).resultLen = s.resultLen := rfl
@[simp] theorem State.dropAccess_args (s : State) : (s.dropAccess).args = s.args := rfl
@[simp] theorem State.dropAccess_inflight (s : State) : (s.dropAccess).inflight = s.inflight := rfl
@[simp] theorem State.dropAccess_dmem (s : State) : (s.dropAccess).dmem = s.dmem := rfl
@[simp] theorem State.dropAccess_rngDraws (s : State) : (s.dropAccess).rngDraws = s.rngDraws := rfl
@[simp] theorem State.dropAccess_readData (s : State) : (s.dropAccess).readData = s.readData := rfl
@[simp] theorem State.dropAccess_turns (s : State) : (s.dropAccess).turns = s.turns := rfl

/-! ### `State.resetInput` -/

@[simp] theorem State.resetInput_ctrl (s : State) : (s.resetInput).ctrl = State.reset.ctrl := rfl
@[simp] theorem State.resetInput_status (s : State) : (s.resetInput).status = State.reset.status := rfl
@[simp] theorem State.resetInput_cmdLast (s : State) : (s.resetInput).cmdLast = 0 := rfl
@[simp] theorem State.resetInput_errcode (s : State) : (s.resetInput).errcode = 0 := rfl
@[simp] theorem State.resetInput_resultLen (s : State) : (s.resetInput).resultLen = 0 := rfl
@[simp] theorem State.resetInput_args (s : State) : (s.resetInput).args = Args.zero := rfl
@[simp] theorem State.resetInput_inflight (s : State) : (s.resetInput).inflight = none := rfl
@[simp] theorem State.resetInput_dmem (s : State) : (s.resetInput).dmem = s.dmem := rfl
@[simp] theorem State.resetInput_rngDraws (s : State) : (s.resetInput).rngDraws = s.rngDraws := rfl
@[simp] theorem State.resetInput_readData (s : State) : (s.resetInput).readData = s.readData := rfl
@[simp] theorem State.resetInput_turns (s : State) : (s.resetInput).turns = s.turns := rfl

/-! ### `State.powerOnReset` -/

@[simp] theorem State.powerOnReset_ctrl (s : State) : (s.powerOnReset).ctrl = State.reset.ctrl := rfl
@[simp] theorem State.powerOnReset_status (s : State) : (s.powerOnReset).status = State.reset.status := rfl
@[simp] theorem State.powerOnReset_cmdLast (s : State) : (s.powerOnReset).cmdLast = 0 := rfl
@[simp] theorem State.powerOnReset_errcode (s : State) : (s.powerOnReset).errcode = 0 := rfl
@[simp] theorem State.powerOnReset_resultLen (s : State) : (s.powerOnReset).resultLen = 0 := rfl
@[simp] theorem State.powerOnReset_args (s : State) : (s.powerOnReset).args = Args.zero := rfl
@[simp] theorem State.powerOnReset_inflight (s : State) : (s.powerOnReset).inflight = none := rfl
@[simp] theorem State.powerOnReset_dmem (s : State) : (s.powerOnReset).dmem = Memory.atPowerOn (s.dmem.powerOn + 1) := rfl
@[simp] theorem State.powerOnReset_rngDraws (s : State) : (s.powerOnReset).rngDraws = s.rngDraws := rfl
@[simp] theorem State.powerOnReset_readData (s : State) : (s.powerOnReset).readData = s.readData := rfl
@[simp] theorem State.powerOnReset_turns (s : State) : (s.powerOnReset).turns = s.turns := rfl

/-! ### `State.complete` -/

@[simp] theorem State.complete_ok (s : State) (o : Output) (n : Nat) :
    s.complete { result := .ok o, draws := n } = { s.completeOk o with rngDraws := s.rngDraws + n } := rfl
@[simp] theorem State.complete_error (s : State) (e : CmdError) (n : Nat) :
    s.complete { result := .error e, draws := n } = { s.completeError e with rngDraws := s.rngDraws + n } := rfl
@[simp] theorem State.complete_rngDraws (s : State) (c : Completion) :
    (s.complete c).rngDraws = s.rngDraws + c.draws := by
  unfold State.complete; cases c.result <;> rfl
@[simp] theorem State.complete_inflight (s : State) (c : Completion) : (s.complete c).inflight = none := by
  unfold State.complete; cases c.result <;> rfl
@[simp] theorem State.complete_ctrl (s : State) (c : Completion) : (s.complete c).ctrl = s.ctrl := by
  unfold State.complete; cases c.result <;> rfl
@[simp] theorem State.complete_cmdLast (s : State) (c : Completion) : (s.complete c).cmdLast = s.cmdLast := by
  unfold State.complete; cases c.result <;> rfl
@[simp] theorem State.complete_args (s : State) (c : Completion) : (s.complete c).args = s.args := by
  unfold State.complete; cases c.result <;> rfl
@[simp] theorem State.complete_readData (s : State) (c : Completion) : (s.complete c).readData = s.readData := by
  unfold State.complete; cases c.result <;> rfl
@[simp] theorem State.complete_turns (s : State) (c : Completion) : (s.complete c).turns = s.turns := by
  unfold State.complete; cases c.result <;> rfl

/-! ### `State.withCommand` -/

@[simp] theorem State.withCommand_ctrl (s : State) (w : Word) : (s.withCommand w).ctrl = (s.accept w).ctrl := rfl
@[simp] theorem State.withCommand_status (s : State) (w : Word) : (s.withCommand w).status = (s.accept w).status := rfl
@[simp] theorem State.withCommand_cmdLast (s : State) (w : Word) : (s.withCommand w).cmdLast = (s.accept w).cmdLast := rfl
@[simp] theorem State.withCommand_errcode (s : State) (w : Word) : (s.withCommand w).errcode = (s.accept w).errcode := rfl
@[simp] theorem State.withCommand_resultLen (s : State) (w : Word) : (s.withCommand w).resultLen = (s.accept w).resultLen := rfl
@[simp] theorem State.withCommand_args (s : State) (w : Word) : (s.withCommand w).args = (s.accept w).args := rfl
@[simp] theorem State.withCommand_inflight (s : State) (w : Word) : (s.withCommand w).inflight = (s.accept w).inflight := rfl
@[simp] theorem State.withCommand_dmem (s : State) (w : Word) : (s.withCommand w).dmem = (s.accept w).dmem := rfl
@[simp] theorem State.withCommand_rngDraws (s : State) (w : Word) : (s.withCommand w).rngDraws = (s.accept w).rngDraws := rfl
@[simp] theorem State.withCommand_readData (s : State) (w : Word) : (s.withCommand w).readData = (s.accept w).readData := rfl
@[simp] theorem State.withCommand_turns (s : State) (w : Word) : (s.withCommand w).turns = sequencerFirst s.turns := rfl

/-! ### ARG registers and flags -/

@[simp] theorem Args.get_set_same (r : Args) (i : Fin 8) (v : Word) : (r.set i v).get i = v := by
  fin_cases i <;> rfl
theorem Args.get_set_other (r : Args) (i j : Fin 8) (v : Word) (h : j ≠ i) : (r.set i v).get j = r.get j := by
  fin_cases i <;> fin_cases j <;> first | rfl | exact absurd rfl h
@[simp] theorem Status.writeOneToClear_err (t : Status) (w : Word) : (t.writeOneToClear w).err = t.err := rfl
@[simp] theorem Status.writeOneToClear_valid (t : Status) (w : Word) : (t.writeOneToClear w).valid = t.valid := rfl
@[simp] theorem Completion.noDraw_result (r : CmdResult) : (Completion.noDraw r).result = r := rfl
@[simp] theorem Completion.noDraw_draws (r : CmdResult) : (Completion.noDraw r).draws = 0 := rfl
@[simp] theorem State.busy_eq (s : State) : s.busy = s.inflight.isSome := rfl

end Sys2Proof.Machine
end

