-- ==== Sys2Proof/Laws/Ops.lean ====
section
/-! SUPPORT. What each shared operation can do, said once: completion, issue, host accesses, the sequencer's turn and
the step. -/

namespace Sys2Proof.Machine

/-! ### Completion -/

/-- What `finish` answers with a command in flight. -/
theorem State.finish_inflight (s : State) (run : InFlight → Completion) {c : InFlight} (h : s.inflight = some c) :
    s.finish run = .next (s.complete (run c)) := by
  simp [State.finish, h]

/-- All that `finish` can answer as a next state. -/
theorem State.finish_next {s t : State} {run : InFlight → Completion} (h : s.finish run = .next t) :
    ∃ c, s.inflight = some c ∧ t = s.complete (run c) := by
  unfold State.finish at h
  split at h
  · cases h
  · rename_i c hc
    exact ⟨c, hc, by cases h; rfl⟩

/-- All that a completion can do: the record of a success, or the record of an error and nothing to DMEM. -/
theorem State.complete_cases (s : State) (c : Completion) :
    (∃ o, c.result = .ok o ∧ s.complete c = { s.completeOk o with rngDraws := s.rngDraws + c.draws }) ∨
    (∃ e, c.result = .error e ∧ s.complete c = { s.completeError e with rngDraws := s.rngDraws + c.draws }) := by
  unfold State.complete
  cases h : c.result with
  | ok o => exact .inl ⟨o, rfl, rfl⟩
  | error e => exact .inr ⟨e, rfl, rfl⟩

/-- `exec` stops only where no command is in flight. -/
theorem exec_inflight (i : Instr) {s : State} {c : InFlight} (h : s.inflight = some c) :
    ∃ d : Completion, exec i s = .next (s.complete d) := by
  cases i <;> exact ⟨_, State.finish_inflight _ _ h⟩

/-! ### Issue -/

/-- All that a CMD write can do. -/
theorem State.issue_cases (s : State) (w : Word) :
    (s.inflight = none ∧ s.issue w = s.accept w) ∨
    (s.inflight ≠ none ∧ s.issue w = { s with status := { s.status with cmdOverrun := true } }) := by
  cases h : s.inflight with
  | none => exact .inl ⟨rfl, by simp [State.issue, State.busy, h]⟩
  | some c => exact .inr ⟨by simp, by simp [State.issue, State.busy, h]⟩

/-! ### Host accesses -/

/-- All that a host read can do to the state: nothing, or set ACCESS_ERR and return 0. -/
theorem State.hostRead_cases (s : State) (size : AccessSize) (o : Offset) :
    (s.hostRead size o).2 = s ∨ s.hostRead size o = (0, s.dropAccess) := by
  unfold State.hostRead
  split
  · split
    · exact .inl rfl
    · exact .inr rfl
  · split
    · exact .inl rfl
    · exact .inr rfl
  · exact .inl rfl

/-- All that a write of a register can do. -/
theorem State.writeReg_cases (s : State) (r : Reg) (w : Word) :
    s.writeReg r w = s ∨
    (r = .ctrl ∧ s.writeReg r w = { s with ctrl := Ctrl.ofWord w }) ∨
    (r = .status ∧ s.writeReg r w = { s with status := s.status.writeOneToClear w }) ∨
    (r = .cmd ∧ s.writeReg r w = s.issue w) ∨
    (∃ i, r = .arg i ∧ s.busy = true ∧ s.writeReg r w = s.dropAccess) ∨
    (∃ i, r = .arg i ∧ s.busy = false ∧ s.writeReg r w = { s with args := s.args.set i w }) := by
  cases r with
  | id => exact .inl rfl
  | version => exact .inl rfl
  | ctrl => exact .inr (.inl ⟨rfl, rfl⟩)
  | status => exact .inr (.inr (.inl ⟨rfl, rfl⟩))
  | cmd => exact .inr (.inr (.inr (.inl ⟨rfl, rfl⟩)))
  | errcode => exact .inl rfl
  | resultLen => exact .inl rfl
  | unimplemented => exact .inl rfl
  | arg i =>
    cases h : s.busy with
    | true => exact .inr (.inr (.inr (.inr (.inl ⟨i, rfl, rfl, by simp only [State.writeReg, h, if_true]⟩))))
    | false =>
      refine .inr (.inr (.inr (.inr (.inr ⟨i, rfl, rfl, ?_⟩))))
      simp only [State.writeReg, h, Bool.false_eq_true, if_false]

/-- All that a host write can do: nothing, a register write, a DMEM write, or set ACCESS_ERR. -/
theorem State.hostWrite_cases (s : State) (size : AccessSize) (o : Offset) (v : Word) :
    s.hostWrite size o v = s ∨ (∃ r, s.hostWrite size o v = s.writeReg r v) ∨ s.hostWrite size o v = s.dropAccess ∨
    (∃ d, placeOf o = .dmem d ∧ s.dmemAccessOk size d = true ∧
      s.hostWrite size o v = { s with dmem := s.dmem.write d (wordToLanes v size.bytes) }) := by
  unfold State.hostWrite
  split
  · split
    · exact .inr (.inl ⟨_, rfl⟩)
    · exact .inr (.inr (.inl rfl))
  · rename_i d hd
    split
    · rename_i hok
      exact .inr (.inr (.inr ⟨d, hd, hok, rfl⟩))
    · exact .inr (.inr (.inl rfl))
  · exact .inl rfl

@[simp] theorem wordToLanes_length (w : Word) (n : Nat) : (wordToLanes w n).length = n := by
  simp [wordToLanes]

/-- The offset of a DMEM place is below DMEM_BYTES. -/
theorem placeOf_dmem_lt {o : Offset} {d : Nat} (hp : placeOf o = .dmem d) : d < Config.dmemBytes := by
  unfold placeOf at hp
  split at hp
  · cases hp
  · split at hp
    · cases hp
    · split at hp
      · simp only [Place.dmem.injEq] at hp
        omega
      · cases hp

/-- A performed DMEM access lies in DMEM. -/
theorem dmem_access_in_bounds {s : State} {size : AccessSize} {o : Offset} {d : Nat} (hp : placeOf o = .dmem d)
    (hok : s.dmemAccessOk size d = true) : d + size.bytes ≤ Config.dmemBytes := by
  have hd := placeOf_dmem_lt hp
  have hal : d % size.bytes = 0 := by
    simp only [State.dmemAccessOk, Bool.and_eq_true, beq_iff_eq] at hok
    exact hok.1
  have hb : Config.dmemBytes = 65536 := rfl
  rw [hb] at hd ⊢
  cases size <;> simp only [AccessSize.bytes] at hal ⊢ <;> omega

/-! ### The step -/

/-- All that the sequencer's turn can do: nothing when idle; in flight, the command's meaning or ILLEGAL_CMD. -/
theorem sequencerTurn_cases (s : State) :
    (s.inflight = none ∧ sequencerTurn s = .next s) ∨
    (∃ c i, s.inflight = some c ∧ decode c.word = .ok i ∧ sequencerTurn s = exec i s) ∨
    (∃ c e, s.inflight = some c ∧ decode c.word = .error e ∧
      sequencerTurn s = .next { s.completeError .illegalCmd with rngDraws := s.rngDraws + 0 }) := by
  unfold sequencerTurn
  cases h : s.inflight with
  | none => exact .inl ⟨rfl, rfl⟩
  | some c =>
    unfold sequencerStep
    cases hd : decode c.word with
    | ok i => exact .inr (.inl ⟨c, i, rfl, hd, by simp only [hd]⟩)
    | error e => exact .inr (.inr ⟨c, e, rfl, hd, by simp only [hd]; rfl⟩)

/-- All that a step can do. -/
theorem step_cases (s : State) :
    (s.turns = [] ∧ step s = sequencerTurn s) ∨
    (∃ rest, s.turns = .completion :: rest ∧ step s = sequencerTurn { s with turns := rest }) ∨
    (∃ a rest, s.turns = .host a :: rest ∧ step s = .next (State.hostAccess { s with turns := rest } a)) ∨
    (∃ rest, s.turns = .resetInput :: rest ∧ step s = .next (State.resetInput { s with turns := rest })) ∨
    (∃ rest, s.turns = .powerOn :: rest ∧ step s = .next (State.powerOnReset { s with turns := rest })) := by
  unfold step nextEvent
  cases h : s.turns with
  | nil => exact .inl ⟨rfl, rfl⟩
  | cons t rest =>
    cases t with
    | host a => exact .inr (.inr (.inl ⟨a, rest, rfl, rfl⟩))
    | completion => exact .inr (.inl ⟨rest, rfl, rfl⟩)
    | resetInput => exact .inr (.inr (.inr (.inl ⟨rest, rfl, rfl⟩)))
    | powerOn => exact .inr (.inr (.inr (.inr ⟨rest, rfl, rfl⟩)))

end Sys2Proof.Machine
end

