-- ==== Sys2Proof/Laws/Commands.lean ====
section
/-! SUPPORT. Every command once: its meaning is the completion with its rule, and a rule that ends successfully writes
exactly the output region of the operand table, in bounds and apart from every input region. -/

namespace Sys2Proof.Machine

open Sys2Proof.Claims

/-- The rule of each command, on the number of the RNG's next draw, the record in flight and DMEM. -/
def commandRule (i : Instr) (draw : Nat) (c : InFlight) (m : Memory) : Completion :=
  match i with
  | .sha256 hex => .noDraw (runSha256 hex c m)
  | .hmacSha256 => .noDraw (runHmacSha256 c m)
  | .hmacVerify => .noDraw (runHmacVerify c m)
  | .b64uEncode pad => .noDraw (runB64uEncode pad c m)
  | .b64uDecode => .noDraw (runB64uDecode c m)
  | .emsaPkcs1Encode => .noDraw (runEmsaPkcs1Encode c m)
  | .mgf1 => .noDraw (runMgf1 c m)
  | .emsaPssEncode => runEmsaPssEncode (rngBytes draw) c m
  | .emsaPssVerify => .noDraw (runEmsaPssVerify c m)
  | .i2osp => .noDraw (runI2osp c m)
  | .rsasp1 => .noDraw (runRsasp1 c m)
  | .rsavp1 => .noDraw (runRsavp1 c m)
  | .rs256Sign => .noDraw (runRs256Sign c m)
  | .rs256Verify => .noDraw (runRs256Verify c m)
  | .ps256Sign => runPs256Sign (rngBytes draw) c m
  | .ps256Verify => .noDraw (runPs256Verify c m)
  | .ecDouble => .noDraw (runEcDouble c m)
  | .ecAdd => .noDraw (runEcAdd c m)
  | .ecScalarMul => .noDraw (runEcScalarMul c m)
  | .ecOnCurve => .noDraw (runEcOnCurve c m)
  | .es256Sign => runEs256Sign (fun t => rngScalar curveN (draw + t)) c m
  | .es256Verify => .noDraw (runEs256Verify c m)

/-- Each command's meaning is the completion with its rule. -/
theorem exec_commandRule (i : Instr) (s : State) :
    exec i s = s.finish fun c => commandRule i s.rngDraws c s.dmem := by
  cases i <;> rfl

@[simp] theorem noDraw_result (r : CmdResult) : (Completion.noDraw r).result = r := rfl

/-- A rule ends successfully past a check only if the check passes. -/
theorem guard_ok {p : Prop} [Decidable p] {e : CmdError} {r : CmdResult} {o : Output} :
    (if p then .error e else r) = .ok o ↔ ¬ p ∧ r = .ok o := by
  split <;> simp [*]

/-- `guard_ok` for a rule that may draw. -/
theorem guard_result_ok {p : Prop} [Decidable p] {e : CmdError} {r : Completion} {o : Output} :
    (if p then Completion.noDraw (.error e) else r).result = .ok o ↔ ¬ p ∧ r.result = .ok o := by
  split <;> simp [*]

/-- The bounds check of several regions (`20_memory.md` R71). -/
theorem allInBounds_iff (rs : List Region) :
    allInBounds rs = true ↔ ∀ r ∈ rs, r.addr + r.len ≤ 65536 := by
  simp only [allInBounds, List.all_eq_true, Region.inBounds, decide_eq_true_eq]
  rfl

/-- The bounds check of a region (`20_memory.md` R71). -/
theorem inBounds_iff (r : Region) : r.inBounds = true ↔ r.addr + r.len ≤ 65536 := by
  simp only [Region.inBounds, decide_eq_true_eq]
  rfl

/-- The overlap check (`20_memory.md` R72). -/
theorem overlapsAny_iff (o : Region) (rs : List Region) :
    o.overlapsAny rs = true ↔
      ∃ r ∈ rs, 0 < o.len ∧ 0 < r.len ∧ o.addr < r.addr + r.len ∧ r.addr < o.addr + o.len := by
  simp [Region.overlapsAny, Region.overlaps, and_assoc]

/-- |Enc(X, pad)| (`42_base64url.md` R151). -/
theorem b64Encode_length (pad : Bool) (x : Bytes) : (b64Encode pad x).length = b64EncodedLen pad x.length := by
  fun_induction b64Encode pad x with
  | case1 => cases pad <;> rfl
  | case2 => cases pad <;> simp [b64EncodedLen]
  | case3 => cases pad <;> simp [b64EncodedLen]
  | case4 x y z rest v ih => cases pad <;> simp [ih, b64EncodedLen] <;> omega

/-- What a successful end writes: nothing, for a command without an output region; else outLen bytes at dst, in
bounds and apart from every input region (`20_memory.md` R70 to R72; `30_encoding.md` R95). -/
def Writes (i : Instr) (c : InFlight) (o : Output) : Prop :=
  (destination i c.args = none ∧ o.bytes = [] ∧ o.dst = 0 ∧ outLen i c.args = some 0) ∨
    (∃ dst, destination i c.args = some dst ∧ o.dst = dst.toNat ∧ o.valid = false ∧
      Inside dst o.bytes.length ∧ (∀ l, outLen i c.args = some l → o.bytes.length = l) ∧
      ∀ r ∈ inputs i c.args c.extRand, ¬ Overlaps dst o.bytes.length r.1 r.2)

/-- A rule that ends with a MemWrite after the bounds and overlap checks of its regions. -/
theorem writes_okBytes {i : Instr} {c : InFlight} {o : Output} {dst : Word} {bytes : Bytes} (n : Nat)
    (rs : List Region)
    (ho : okBytes dst.toNat bytes = .ok o) (hd : destination i c.args = some dst) (hn : bytes.length = n)
    (hl : ∀ l, outLen i c.args = some l → n = l) (hin : dst.toNat + n ≤ 65536)
    (hr : ∀ r ∈ inputs i c.args c.extRand, { addr := r.1.toNat, len := r.2 } ∈ rs)
    (hov : ¬ (Region.overlapsAny { addr := dst.toNat, len := n } rs = true)) : Writes i c o := by
  cases ho
  refine .inr ⟨dst, hd, rfl, rfl, by simpa [Inside, hn] using hin, by simpa [hn] using hl, fun r h ho => hov ?_⟩
  simp only [overlapsAny_iff]
  refine ⟨_, hr r h, ?_⟩
  simp only [hn] at ho
  exact ho

/-- A rule that ends with a boolean. -/
theorem writes_okValid {i : Instr} {c : InFlight} {o : Output} {v : Bool} (ho : okValid v = .ok o)
    (hd : destination i c.args = none) (hl : outLen i c.args = some 0) : Writes i c o := by
  cases ho
  exact .inl ⟨hd, rfl, rfl, hl⟩

/-- What each command writes when it succeeds. -/
theorem commandRule_ok (i : Instr) (n : Nat) (c : InFlight) (m : Memory) (o : Output)
    (h : (commandRule i n c m).result = .ok o) : Writes i c o := by
  cases i <;> simp only [commandRule, noDraw_result, runSha256, runHmacSha256, runHmacVerify, runB64uEncode,
    runB64uDecode, runEmsaPkcs1Encode, runMgf1, runEmsaPssVerify, runI2osp, runRsasp1, runRsavp1, runRsaPrimitive,
    runRs256Sign, runRs256Verify, runPs256Verify, runEcDouble, runEcAdd, runEcScalarMul, runEcOnCurve,
    runEs256Verify, runEmsaPssEncode, runPs256Sign, runEs256Sign, guard_ok, guard_result_ok, Bool.not_eq_true',
    Bool.not_eq_false, allInBounds_iff, List.mem_cons, forall_eq_or_imp, List.not_mem_nil, false_imp_iff,
    implies_true, and_true, not_lt, not_le] at h
  case sha256 hex =>
    obtain ⟨hb, ho, h⟩ := h
    exact writes_okBytes (if hex then 64 else 32) _ h rfl (by cases hex <;> simp) (by simp [outLen]) hb.2
      (by simp [inputs, region]) ho
  case hmacSha256 =>
    obtain ⟨hb, ho, h⟩ := h
    exact writes_okBytes 32 _ h rfl (by simp) (by simp [outLen]) hb.2.2 (by simp [inputs, region]) ho
  case hmacVerify => exact writes_okValid h.2 rfl rfl
  case b64uEncode pad =>
    obtain ⟨hb, ho, h⟩ := h
    exact writes_okBytes (b64EncodedLen pad c.args.a1.toNat) _ h rfl
      (by simp [b64Encode_length, Memory.fetch, region]) (by cases pad <;> simp [outLen, b64EncodedLen])
      hb.2 (by simp [inputs, region]) ho
  case b64uDecode =>
    obtain ⟨hb, h⟩ := h
    split at h
    · cases h
    · rename_i l hl
      simp only [guard_ok, Bool.not_eq_false, inBounds_iff] at h
      obtain ⟨hb', ho, h⟩ := h
      exact writes_okBytes l _ h rfl (by simp) (by simp [outLen]) hb' (by simp [inputs, region]) ho
  case emsaPkcs1Encode =>
    obtain ⟨hb, ho, h⟩ := h
    split at h
    · cases h
    · rename_i em he
      exact writes_okBytes c.args.a1.toNat _ h rfl (encPkcs1_length (by simp [Memory.fetch, regionOf]) he)
        (by simp [outLen]) hb.2 (by simp [inputs, regionOf]) ho
  case mgf1 =>
    obtain ⟨-, hb, ho, h⟩ := h
    exact writes_okBytes c.args.a2.toNat _ h rfl (by simp [region]) (by simp [outLen]) hb.2
      (by simp [inputs, region]) ho
  case emsaPssEncode =>
    obtain ⟨hb, ho, hl, h⟩ := h
    split at h
    · cases h
    · rename_i em he
      exact writes_okBytes (pssEmLen c.args.a3.toNat) _ h rfl
        (encPss_length (by cases c.extRand <;> simp [Memory.fetch, regionOf]) he) (by simp [outLen, pssEmLen]) hb.1
        (by cases c.extRand <;> simp [inputs, whenExternal, region, regionOf]) ho
  case emsaPssVerify => exact writes_okValid h.2 rfl rfl
  case i2osp =>
    obtain ⟨hb, ho, -, h⟩ := h
    exact writes_okBytes c.args.a2.toNat _ h rfl (by simp [region]) (by simp [outLen]) hb.2
      (by simp [inputs, region]) ho
  case rsasp1 =>
    obtain ⟨-, hb, ho, -, h⟩ := h
    split at h
    · cases h
    · exact writes_okBytes (c.args.a0.toNat / 8) _ h rfl (by simp) (by simp [outLen]) hb.2.2.2
        (by simp [inputs, regionOf]) ho
  case rsavp1 =>
    obtain ⟨-, hb, ho, -, h⟩ := h
    split at h
    · cases h
    · exact writes_okBytes (c.args.a0.toNat / 8) _ h rfl (by simp) (by simp [outLen]) hb.2.2.2
        (by simp [inputs, regionOf]) ho
  case rs256Sign =>
    obtain ⟨-, hb, ho, -, h⟩ := h
    split at h
    · cases h
    · split at h
      · cases h
      · exact writes_okBytes (c.args.a0.toNat / 8) _ h rfl (by simp) (by simp [outLen]) hb.2.2.2
          (by simp [inputs, region, regionOf]) ho
  case rs256Verify =>
    obtain ⟨-, -, -, -, h⟩ := h
    split at h
    · cases h
    · split at h
      · cases h
      · exact writes_okValid h rfl rfl
  case ps256Sign =>
    obtain ⟨-, hb, ho, -, -, h⟩ := h
    split at h
    · cases h
    · split at h
      · cases h
      · exact writes_okBytes (c.args.a0.toNat / 8) _ h rfl (by simp) (by simp [outLen]) hb.1
          (by cases c.extRand <;> simp [inputs, whenExternal, region, regionOf, ps256SaltLen]) ho
  case ps256Verify =>
    obtain ⟨-, -, -, -, h⟩ := h
    split at h
    · cases h
    · exact writes_okValid h rfl rfl
  case ecDouble =>
    obtain ⟨hb, ho, h⟩ := h
    split at h
    · cases h
    · split at h
      · cases h
      · exact writes_okBytes 65 _ h rfl (by simp) (by simp [outLen]) hb.2 (by simp [inputs, regionOf]) ho
  case ecAdd =>
    obtain ⟨hb, ho, h⟩ := h
    split at h
    · cases h
    · split at h
      · cases h
      · split at h
        · cases h
        · exact writes_okBytes 65 _ h rfl (by simp) (by simp [outLen]) hb.2.2 (by simp [inputs, regionOf]) ho
  case ecScalarMul =>
    obtain ⟨hb, ho, h⟩ := h
    split at h
    · cases h
    · split at h
      · cases h
      · exact writes_okBytes 65 _ h rfl (by simp) (by simp [outLen]) hb.2.2 (by simp [inputs, regionOf]) ho
  case ecOnCurve => exact writes_okValid h.2.2 rfl rfl
  case es256Sign =>
    obtain ⟨hb, ho, -, h⟩ := h
    have key : ∀ r, es256Result (regionOf c.args.a3 64) r = .ok o → Writes .es256Sign c o := by
      intro r hr
      unfold es256Result at hr
      split at hr
      · cases hr
      · exact writes_okBytes 64 _ hr rfl (by simp) (by simp [outLen]) hb.1
          (by cases c.extRand <;> simp [inputs, whenExternal, region, regionOf]) ho
    split at h
    · split at h
      · cases h
      · exact key _ h
    · exact key _ h
  case es256Verify =>
    obtain ⟨-, -, -, h⟩ := h
    split at h
    · exact writes_okValid h rfl rfl
    · split at h
      · exact writes_okValid h rfl rfl
      · split at h
        · cases h
        · exact writes_okValid h rfl rfl

/-- All that a command can do when it has a next state: the record of a success that writes its output region, or the
record of an error. -/
theorem exec_next_cases {i : Instr} {s t : State} (h : exec i s = .next t) :
    ∃ c, s.inflight = some c ∧
      ((∃ o, (commandRule i s.rngDraws c s.dmem).result = .ok o ∧ Writes i c o ∧
          t = { s.completeOk o with rngDraws := s.rngDraws + (commandRule i s.rngDraws c s.dmem).draws }) ∨
        ∃ e, (commandRule i s.rngDraws c s.dmem).result = .error e ∧
          t = { s.completeError e with rngDraws := s.rngDraws + (commandRule i s.rngDraws c s.dmem).draws }) := by
  rw [exec_commandRule] at h
  obtain ⟨c, hc, rfl⟩ := State.finish_next h
  refine ⟨c, hc, ?_⟩
  rcases State.complete_cases s (commandRule i s.rngDraws c s.dmem) with ⟨o, ho, h⟩ | ⟨e, he, h⟩
  · exact .inl ⟨o, ho, commandRule_ok _ _ _ _ _ ho, h⟩
  · exact .inr ⟨e, he, h⟩

end Sys2Proof.Machine
end

