-- ==== Sys2Proof/Laws/Primes.lean ====
section
/-! SUPPORT. The field prime q and the group order n of P-256 are prime (`45_ec_point.md` R230, R233; `46_ecdsa.md`
R263), by certificates: for each prime, the factors of p − 1 and an element of order p − 1. -/

namespace Sys2Proof.Machine

/-- A number is prime if its predecessor is a product of primes and some element has that full order. -/
theorem prime_of_certificate {p : ℕ} (a : ℕ) (fs : List ℕ) (hprod : fs.prod = p - 1) (hfs : ∀ f ∈ fs, f.Prime)
    (hone : (a : ZMod p) ^ (p - 1) = 1) (hne : ∀ f ∈ fs, (a : ZMod p) ^ ((p - 1) / f) ≠ 1) : p.Prime := by
  refine lucas_primality p a hone fun r hr hd => hne r ?_
  obtain ⟨f, hf, hrf⟩ := (Prime.dvd_prod_iff hr.prime).1 (hprod ▸ hd)
  exact ((Nat.prime_dvd_prime_iff_eq hr (hfs f hf)).1 hrf) ▸ hf

theorem prime_6700417 : Nat.Prime 6700417 := by
  refine prime_of_certificate 5 [2, 2, 2, 2, 2, 2, 2, 3, 17449] (by norm_num) ?_ (by reduce_mod_char) ?_
  · simp only [List.forall_mem_cons]
    exact ⟨(by norm_num), (by norm_num), (by norm_num), (by norm_num), (by norm_num), (by norm_num), (by norm_num), (by norm_num), (by norm_num), fun _ h => absurd h List.not_mem_nil⟩
  · simp only [List.forall_mem_cons]
    refine ⟨?_, ?_, ?_, ?_, ?_, ?_, ?_, ?_, ?_, fun _ h => absurd h List.not_mem_nil⟩ <;> (norm_num; reduce_mod_char; decide)

theorem prime_204061199 : Nat.Prime 204061199 := by
  refine prime_of_certificate 11 [2, 11, 23, 107, 3769] (by norm_num) ?_ (by reduce_mod_char) ?_
  · simp only [List.forall_mem_cons]
    exact ⟨(by norm_num), (by norm_num), (by norm_num), (by norm_num), (by norm_num), fun _ h => absurd h List.not_mem_nil⟩
  · simp only [List.forall_mem_cons]
    refine ⟨?_, ?_, ?_, ?_, ?_, fun _ h => absurd h List.not_mem_nil⟩ <;> (norm_num; reduce_mod_char; decide)

theorem prime_34282281433 : Nat.Prime 34282281433 := by
  refine prime_of_certificate 17 [2, 2, 2, 3, 7, 204061199] (by norm_num) ?_ (by reduce_mod_char) ?_
  · simp only [List.forall_mem_cons]
    exact ⟨(by norm_num), (by norm_num), (by norm_num), (by norm_num), (by norm_num), prime_204061199, fun _ h => absurd h List.not_mem_nil⟩
  · simp only [List.forall_mem_cons]
    refine ⟨?_, ?_, ?_, ?_, ?_, ?_, fun _ h => absurd h List.not_mem_nil⟩ <;> (norm_num; reduce_mod_char; decide)

theorem prime_66417393611 : Nat.Prime 66417393611 := by
  refine prime_of_certificate 6 [2, 5, 53, 173, 197, 3677] (by norm_num) ?_ (by reduce_mod_char) ?_
  · simp only [List.forall_mem_cons]
    exact ⟨(by norm_num), (by norm_num), (by norm_num), (by norm_num), (by norm_num), (by norm_num), fun _ h => absurd h List.not_mem_nil⟩
  · simp only [List.forall_mem_cons]
    refine ⟨?_, ?_, ?_, ?_, ?_, ?_, fun _ h => absurd h List.not_mem_nil⟩ <;> (norm_num; reduce_mod_char; decide)

theorem prime_11290956913871 : Nat.Prime 11290956913871 := by
  refine prime_of_certificate 13 [2, 5, 17, 66417393611] (by norm_num) ?_ (by reduce_mod_char) ?_
  · simp only [List.forall_mem_cons]
    exact ⟨(by norm_num), (by norm_num), (by norm_num), prime_66417393611, fun _ h => absurd h List.not_mem_nil⟩
  · simp only [List.forall_mem_cons]
    refine ⟨?_, ?_, ?_, ?_, fun _ h => absurd h List.not_mem_nil⟩ <;> (norm_num; reduce_mod_char; decide)

theorem prime_46076956964474543 : Nat.Prime 46076956964474543 := by
  refine prime_of_certificate 5 [2, 23, 18169, 78283, 704251] (by norm_num) ?_ (by reduce_mod_char) ?_
  · simp only [List.forall_mem_cons]
    exact ⟨(by norm_num), (by norm_num), (by norm_num), (by norm_num), (by norm_num), fun _ h => absurd h List.not_mem_nil⟩
  · simp only [List.forall_mem_cons]
    refine ⟨?_, ?_, ?_, ?_, ?_, fun _ h => absurd h List.not_mem_nil⟩ <;> (norm_num; reduce_mod_char; decide)

theorem prime_774023187263532362759620327192479577272145303 : Nat.Prime 774023187263532362759620327192479577272145303 := by
  refine prime_of_certificate 3 [2, 3, 3, 2411, 34282281433, 11290956913871, 46076956964474543] (by norm_num) ?_ (by reduce_mod_char) ?_
  · simp only [List.forall_mem_cons]
    exact ⟨(by norm_num), (by norm_num), (by norm_num), (by norm_num), prime_34282281433, prime_11290956913871, prime_46076956964474543, fun _ h => absurd h List.not_mem_nil⟩
  · simp only [List.forall_mem_cons]
    refine ⟨?_, ?_, ?_, ?_, ?_, ?_, ?_, fun _ h => absurd h List.not_mem_nil⟩ <;> (norm_num; reduce_mod_char; decide)

theorem prime_835945042244614951780389953367877943453916927241 : Nat.Prime 835945042244614951780389953367877943453916927241 := by
  refine prime_of_certificate 11 [2, 2, 2, 3, 3, 3, 5, 774023187263532362759620327192479577272145303] (by norm_num) ?_ (by reduce_mod_char) ?_
  · simp only [List.forall_mem_cons]
    exact ⟨(by norm_num), (by norm_num), (by norm_num), (by norm_num), (by norm_num), (by norm_num), (by norm_num), prime_774023187263532362759620327192479577272145303, fun _ h => absurd h List.not_mem_nil⟩
  · simp only [List.forall_mem_cons]
    refine ⟨?_, ?_, ?_, ?_, ?_, ?_, ?_, ?_, fun _ h => absurd h List.not_mem_nil⟩ <;> (norm_num; reduce_mod_char; decide)

theorem curveQ_prime_literal : Nat.Prime 115792089210356248762697446949407573530086143415290314195533631308867097853951 := by
  refine prime_of_certificate 6 [2, 3, 5, 5, 17, 257, 641, 1531, 65537, 490463, 6700417, 835945042244614951780389953367877943453916927241] (by norm_num) ?_ (by reduce_mod_char) ?_
  · simp only [List.forall_mem_cons]
    exact ⟨(by norm_num), (by norm_num), (by norm_num), (by norm_num), (by norm_num), (by norm_num), (by norm_num), (by norm_num), (by norm_num), (by norm_num), prime_6700417, prime_835945042244614951780389953367877943453916927241, fun _ h => absurd h List.not_mem_nil⟩
  · simp only [List.forall_mem_cons]
    refine ⟨?_, ?_, ?_, ?_, ?_, ?_, ?_, ?_, ?_, ?_, ?_, ?_, fun _ h => absurd h List.not_mem_nil⟩ <;> (norm_num; reduce_mod_char; decide)

theorem prime_9350987 : Nat.Prime 9350987 := by
  refine prime_of_certificate 2 [2, 17, 229, 1201] (by norm_num) ?_ (by reduce_mod_char) ?_
  · simp only [List.forall_mem_cons]
    exact ⟨(by norm_num), (by norm_num), (by norm_num), (by norm_num), fun _ h => absurd h List.not_mem_nil⟩
  · simp only [List.forall_mem_cons]
    refine ⟨?_, ?_, ?_, ?_, fun _ h => absurd h List.not_mem_nil⟩ <;> (norm_num; reduce_mod_char; decide)

theorem prime_187019741 : Nat.Prime 187019741 := by
  refine prime_of_certificate 2 [2, 2, 5, 9350987] (by norm_num) ?_ (by reduce_mod_char) ?_
  · simp only [List.forall_mem_cons]
    exact ⟨(by norm_num), (by norm_num), (by norm_num), prime_9350987, fun _ h => absurd h List.not_mem_nil⟩
  · simp only [List.forall_mem_cons]
    refine ⟨?_, ?_, ?_, ?_, fun _ h => absurd h List.not_mem_nil⟩ <;> (norm_num; reduce_mod_char; decide)

theorem prime_311245691 : Nat.Prime 311245691 := by
  refine prime_of_certificate 2 [2, 5, 7, 17, 29, 29, 311] (by norm_num) ?_ (by reduce_mod_char) ?_
  · simp only [List.forall_mem_cons]
    exact ⟨(by norm_num), (by norm_num), (by norm_num), (by norm_num), (by norm_num), (by norm_num), (by norm_num), fun _ h => absurd h List.not_mem_nil⟩
  · simp only [List.forall_mem_cons]
    refine ⟨?_, ?_, ?_, ?_, ?_, ?_, ?_, fun _ h => absurd h List.not_mem_nil⟩ <;> (norm_num; reduce_mod_char; decide)

theorem prime_622491383 : Nat.Prime 622491383 := by
  refine prime_of_certificate 5 [2, 311245691] (by norm_num) ?_ (by reduce_mod_char) ?_
  · simp only [List.forall_mem_cons]
    exact ⟨(by norm_num), prime_311245691, fun _ h => absurd h List.not_mem_nil⟩
  · simp only [List.forall_mem_cons]
    refine ⟨?_, ?_, fun _ h => absurd h List.not_mem_nil⟩ <;> (norm_num; reduce_mod_char; decide)

theorem prime_3969899 : Nat.Prime 3969899 := by
  refine prime_of_certificate 2 [2, 19, 104471] (by norm_num) ?_ (by reduce_mod_char) ?_
  · simp only [List.forall_mem_cons]
    exact ⟨(by norm_num), (by norm_num), (by norm_num), fun _ h => absurd h List.not_mem_nil⟩
  · simp only [List.forall_mem_cons]
    refine ⟨?_, ?_, ?_, fun _ h => absurd h List.not_mem_nil⟩ <;> (norm_num; reduce_mod_char; decide)

theorem prime_1002328039319 : Nat.Prime 1002328039319 := by
  refine prime_of_certificate 19 [2, 126241, 3969899] (by norm_num) ?_ (by reduce_mod_char) ?_
  · simp only [List.forall_mem_cons]
    exact ⟨(by norm_num), (by norm_num), prime_3969899, fun _ h => absurd h List.not_mem_nil⟩
  · simp only [List.forall_mem_cons]
    refine ⟨?_, ?_, ?_, fun _ h => absurd h List.not_mem_nil⟩ <;> (norm_num; reduce_mod_char; decide)

theorem prime_191039911 : Nat.Prime 191039911 := by
  refine prime_of_certificate 3 [2, 3, 5, 41, 155317] (by norm_num) ?_ (by reduce_mod_char) ?_
  · simp only [List.forall_mem_cons]
    exact ⟨(by norm_num), (by norm_num), (by norm_num), (by norm_num), (by norm_num), fun _ h => absurd h List.not_mem_nil⟩
  · simp only [List.forall_mem_cons]
    refine ⟨?_, ?_, ?_, ?_, ?_, fun _ h => absurd h List.not_mem_nil⟩ <;> (norm_num; reduce_mod_char; decide)

theorem prime_208150935158385979 : Nat.Prime 208150935158385979 := by
  refine prime_of_certificate 2 [2, 3, 11, 43, 127, 3023, 191039911] (by norm_num) ?_ (by reduce_mod_char) ?_
  · simp only [List.forall_mem_cons]
    exact ⟨(by norm_num), (by norm_num), (by norm_num), (by norm_num), (by norm_num), (by norm_num), prime_191039911, fun _ h => absurd h List.not_mem_nil⟩
  · simp only [List.forall_mem_cons]
    refine ⟨?_, ?_, ?_, ?_, ?_, ?_, ?_, fun _ h => absurd h List.not_mem_nil⟩ <;> (norm_num; reduce_mod_char; decide)

theorem prime_2624747550333869278416773953 : Nat.Prime 2624747550333869278416773953 := by
  refine prime_of_certificate 7 [2, 2, 2, 2, 2, 2, 3, 3, 1297, 16879, 208150935158385979] (by norm_num) ?_ (by reduce_mod_char) ?_
  · simp only [List.forall_mem_cons]
    exact ⟨(by norm_num), (by norm_num), (by norm_num), (by norm_num), (by norm_num), (by norm_num), (by norm_num), (by norm_num), (by norm_num), (by norm_num), prime_208150935158385979, fun _ h => absurd h List.not_mem_nil⟩
  · simp only [List.forall_mem_cons]
    refine ⟨?_, ?_, ?_, ?_, ?_, ?_, ?_, ?_, ?_, ?_, ?_, fun _ h => absurd h List.not_mem_nil⟩ <;> (norm_num; reduce_mod_char; decide)

theorem curveN_prime_literal : Nat.Prime 115792089210356248762697446949407573529996955224135760342422259061068512044369 := by
  refine prime_of_certificate 7 [2, 2, 2, 2, 3, 71, 131, 373, 3407, 17449, 38189, 187019741, 622491383, 1002328039319, 2624747550333869278416773953] (by norm_num) ?_ (by reduce_mod_char) ?_
  · simp only [List.forall_mem_cons]
    exact ⟨(by norm_num), (by norm_num), (by norm_num), (by norm_num), (by norm_num), (by norm_num), (by norm_num), (by norm_num), (by norm_num), (by norm_num), (by norm_num), prime_187019741, prime_622491383, prime_1002328039319, prime_2624747550333869278416773953, fun _ h => absurd h List.not_mem_nil⟩
  · simp only [List.forall_mem_cons]
    refine ⟨?_, ?_, ?_, ?_, ?_, ?_, ?_, ?_, ?_, ?_, ?_, ?_, ?_, ?_, ?_, fun _ h => absurd h List.not_mem_nil⟩ <;> (norm_num; reduce_mod_char; decide)

/-- The field prime q of P-256 is prime. -/
theorem curveQ_prime : Nat.Prime curveQ := curveQ_prime_literal

/-- The group order n of P-256 is prime. -/
theorem curveN_prime : Nat.Prime curveN := curveN_prime_literal

end Sys2Proof.Machine
end

