-- ==== Sys2Proof/Laws/Curve.lean ====
section
/-! SUPPORT. P-256 has no point with y = 0 (`45_ec_point.md` R241): its cubic x³ + a·x + b has no root mod q, since
x^q − x and the cubic have no common factor mod q. -/

namespace Sys2Proof.Machine

/-- The product of two polynomials of degree at most 2, modulo the cubic x³ − 3·x − b' and mod q. -/
def cubicMul (q b' : ℕ) (p r : ℕ × ℕ × ℕ) : ℕ × ℕ × ℕ :=
  let c0 := p.1 * r.1
  let c1 := p.1 * r.2.1 + p.2.1 * r.1
  let c2 := p.1 * r.2.2 + p.2.1 * r.2.1 + p.2.2 * r.1
  let c3 := p.2.1 * r.2.2 + p.2.2 * r.2.1
  let c4 := p.2.2 * r.2.2
  ((c0 + c3 * b') % q, (c1 + 3 * c3 + c4 * b') % q, (c2 + 3 * c4) % q)

/-- acc · p^k in the same ring, over at most `fuel` bits of k. -/
def cubicPow (q b' : ℕ) : (fuel k : ℕ) → (acc p : ℕ × ℕ × ℕ) → ℕ × ℕ × ℕ
  | 0, _, acc, _ => acc
  | fuel + 1, k, acc, p =>
    cubicPow q b' fuel (k / 2) (if k % 2 = 1 then cubicMul q b' acc p else acc) (cubicMul q b' p p)

/-- The value of such a polynomial at an element of the field. -/
def cubicEval (p : ℕ × ℕ × ℕ) (r : ZMod curveQ) : ZMod curveQ := p.1 + p.2.1 * r + p.2.2 * r ^ 2

theorem curveQ_cast : ((curveQ : ℕ) : ZMod curveQ) = 0 := ZMod.natCast_self curveQ

theorem cubicEval_mul (p p' : ℕ × ℕ × ℕ) (r : ZMod curveQ) (h : r ^ 3 = 3 * r - curveB) :
    cubicEval (cubicMul curveQ (curveQ - curveB) p p') r = cubicEval p r * cubicEval p' r := by
  have hb : ((curveQ - curveB : ℕ) : ZMod curveQ) = -(curveB : ZMod curveQ) := by
    rw [Nat.cast_sub (by decide), curveQ_cast, zero_sub]
  have h4 : r ^ 4 = 3 * r ^ 2 - curveB * r := by linear_combination r * h
  simp only [cubicEval, cubicMul, ZMod.natCast_mod, Nat.cast_add, Nat.cast_mul, hb, Nat.cast_ofNat]
  linear_combination (-(p.2.1 * p'.2.2 + p.2.2 * p'.2.1 : ZMod curveQ)) * h - (p.2.2 * p'.2.2 : ZMod curveQ) * h4

theorem cubicEval_pow (fuel k : ℕ) (acc p : ℕ × ℕ × ℕ) (r : ZMod curveQ) (h : r ^ 3 = 3 * r - curveB)
    (hk : k < 2 ^ fuel) : cubicEval (cubicPow curveQ (curveQ - curveB) fuel k acc p) r = cubicEval acc r * cubicEval p r ^ k := by
  induction fuel generalizing k acc p with
  | zero =>
    have : k = 0 := by omega
    subst this
    simp [cubicPow]
  | succ fuel ih =>
    rw [cubicPow, ih _ _ _ (by rw [pow_succ] at hk; omega), cubicEval_mul _ _ _ h, ← pow_two, ← pow_mul]
    conv_rhs => rw [← Nat.div_add_mod k 2]
    rcases Nat.mod_two_eq_zero_or_one k with h0 | h1
    · simp [h0]
    · simp only [h1, if_true, cubicEval_mul _ _ _ h, pow_succ]
      ring

/-- x^q modulo the cubic and mod q. -/
theorem cubicPow_q : cubicPow curveQ (curveQ - curveB) 256 curveQ (1, 0, 0) (0, 1, 0) =
    (66434390973925144466073271287821796038003695194169110494110089305650096453661,
      12402202686218762177567235911775779164004716598278868847786114277539554646092,
      24678849118215552148312087830792888746041224110560601850711771001608500700145) := by
  decide +kernel

/-- The cubic x³ + a·x + b of P-256 has no root mod q. -/
theorem cubic_no_root (r : ZMod curveQ) : r ^ 3 + curveA * r + curveB ≠ 0 := by
  intro hr
  have hq : Fact curveQ.Prime := ⟨curveQ_prime⟩
  have ha : ((curveA : ℕ) : ZMod curveQ) = -3 := by
    have : ((curveA + 3 : ℕ) : ZMod curveQ) = 0 := by rw [show curveA + 3 = curveQ from rfl, curveQ_cast]
    push_cast at this
    linear_combination this
  have h3 : r ^ 3 = 3 * r - curveB := by rw [ha] at hr; linear_combination hr
  have hpow := cubicEval_pow 256 curveQ (1, 0, 0) (0, 1, 0) r h3 (by decide)
  have hfermat : r ^ curveQ = r := ZMod.pow_card r
  rw [cubicPow_q] at hpow
  simp only [cubicEval, Nat.cast_zero, Nat.cast_one, zero_mul, add_zero, zero_add, one_mul, hfermat] at hpow
  push_cast at hpow
  have h0 : (curveQ : ZMod curveQ) = 0 := curveQ_cast
  rw [show (curveQ : ZMod curveQ) = (115792089210356248762697446949407573530086143415290314195533631308867097853951 : ZMod curveQ) by
    norm_num [curveQ]] at h0
  rw [show (curveB : ZMod curveQ) = (41058363725152142129326129780047268409114441015993725554835256314039467401291 : ZMod curveQ) by
    norm_num [curveB]] at h3
  have h1 : (1 : ZMod curveQ) = 0 := by
    linear_combination (76626890310466861426869089647039036757962535851890885406097439786770458211455
        + 74462945259064871768191128030512052509059297803194871526163573358218695456204 * r
        + 34768139465301476436978405170953382516735956999154666452188405812258086013549 * r ^ 2) * hpow
      + (107286402702237026811154678719514266289498743974321057492273529440068429825344
        + 6389611969556882025875921584714237703390037729321797349080302270353162149340 * r) * h3
      - (82006162939704079939581181709976996092266308199183309578158969013154857761758
        + 53195254508055917545569285545031260419374692918778229085754047757622876704507 * r
        + 44254907305889426083372809061327589531002087792042969636720392495218289272808 * r ^ 2
        + 19594268650736750401918991328041959909110035062448741686819397381038349806533 * r ^ 3
        + 7410157929066101016865484023617449031630549387091645260359016622210978818695 * r ^ 4) * h0
  exact one_ne_zero h1

/-- No point of P-256 has y = 0, so no curve point is its own opposite (`45_ec_point.md` R241). -/
theorem curve_y_ne_zero {x y : ℕ} (h : isOnCurve (.affine x y) = true) : y ≠ 0 := by
  rintro rfl
  simp only [isOnCurve, Bool.and_eq_true, beq_iff_eq] at h
  have hc := (ZMod.natCast_eq_natCast_iff' _ _ curveQ).2 h.2
  push_cast at hc
  exact cubic_no_root (x : ZMod curveQ) (by rw [← hc])

end Sys2Proof.Machine
end

