-- ==== Sys2Proof/Laws/PerInstr.lean ====
section
/-! SUPPORT. Facts about each command as syntax, one lemma per constructor of `Instr`. -/

namespace Sys2Proof.Laws.EncodesLegalWord

/-- The command encodes to a word that spells a command (`30_encoding.md` R92 to R94, R99). -/
def Statement (i : Instr) : Prop := wordWellFormed (encode i) = true

theorem sha256 (hex : Bool) : Statement (.sha256 hex) := by cases hex <;> (unfold Statement; decide)
theorem hmacSha256 : Statement .hmacSha256 := by unfold Statement; decide
theorem hmacVerify : Statement .hmacVerify := by unfold Statement; decide
theorem b64uEncode (pad : Bool) : Statement (.b64uEncode pad) := by cases pad <;> (unfold Statement; decide)
theorem b64uDecode : Statement .b64uDecode := by unfold Statement; decide
theorem emsaPkcs1Encode : Statement .emsaPkcs1Encode := by unfold Statement; decide
theorem mgf1 : Statement .mgf1 := by unfold Statement; decide
theorem emsaPssEncode : Statement .emsaPssEncode := by unfold Statement; decide
theorem emsaPssVerify : Statement .emsaPssVerify := by unfold Statement; decide
theorem i2osp : Statement .i2osp := by unfold Statement; decide
theorem rsasp1 : Statement .rsasp1 := by unfold Statement; decide
theorem rsavp1 : Statement .rsavp1 := by unfold Statement; decide
theorem rs256Sign : Statement .rs256Sign := by unfold Statement; decide
theorem rs256Verify : Statement .rs256Verify := by unfold Statement; decide
theorem ps256Sign : Statement .ps256Sign := by unfold Statement; decide
theorem ps256Verify : Statement .ps256Verify := by unfold Statement; decide
theorem ecDouble : Statement .ecDouble := by unfold Statement; decide
theorem ecAdd : Statement .ecAdd := by unfold Statement; decide
theorem ecScalarMul : Statement .ecScalarMul := by unfold Statement; decide
theorem ecOnCurve : Statement .ecOnCurve := by unfold Statement; decide
theorem es256Sign : Statement .es256Sign := by unfold Statement; decide
theorem es256Verify : Statement .es256Verify := by unfold Statement; decide

end Sys2Proof.Laws.EncodesLegalWord
end

