-- ==== Sys2Proof/Laws/Points.lean ====
section
/-! SUPPORT. The words of the obligations about points, on a given operand. -/

namespace Sys2Proof.Claims

open Sys2Proof.Machine

/-- Which affine point a 65-byte operand spells, read off its bytes (`45_ec_point.md` R231). -/
theorem spells_affine_iff {op : Bytes} (h : op.length = 65) (x y : Nat) :
    Spells op (.affine x y) ↔
      op.getD 0 0 = 0x04 ∧ x = os2ip ((op.drop 1).take 32) ∧ y = os2ip (op.drop 33) ∧ x < curveQ ∧ y < curveQ := by
  constructor
  · rintro ⟨X, Y, rfl, hX, hY, rfl, rfl, hx, hy⟩
    have hd : (0x04 :: (X ++ Y) : Bytes).drop 33 = Y := by
      rw [List.drop_succ_cons, ← hX, List.drop_left]
    refine ⟨rfl, ?_, by rw [hd], hx, hy⟩
    rw [List.drop_succ_cons, List.drop_zero, ← hX, List.take_left]
  · rintro ⟨ht, rfl, rfl, hx, hy⟩
    refine ⟨(op.drop 1).take 32, op.drop 33, ?_, by simp [h], by simp [h], rfl, rfl, hx, hy⟩
    cases op with
    | nil => simp at h
    | cons b rest =>
      simp only [List.getD_cons_zero] at ht
      subst ht
      rw [List.drop_succ_cons, List.drop_zero, List.drop_succ_cons, List.take_append_drop]

/-- When a 65-byte operand spells Identity (`45_ec_point.md` R231). -/
theorem spells_identity_iff {op : Bytes} (h : op.length = 65) : Spells op .identity ↔ op.getD 0 0 = 0x00 := by
  constructor
  · rintro ⟨rest, rfl, -⟩
    rfl
  · intro ht
    cases op with
    | nil => simp at h
    | cons b rest =>
      simp only [List.getD_cons_zero] at ht
      subst ht
      exact ⟨rest, rfl, by simpa using h⟩

/-- A doubling that has no result leaves the loop without one for every k from 2 on (`45_ec_point.md` R235). -/
theorem ladder_needs_double {k : Nat} {r a z : Point} (hk : 2 ≤ k) (h : Ladder k r a z) : ∃ a', IsDouble a a' := by
  cases h with
  | none => omega
  | last => omega
  | clear _ hd => exact ⟨_, hd⟩
  | set _ _ hd => exact ⟨_, hd⟩

end Sys2Proof.Claims
end

