-- ==== Sys2Proof/Tests/Slice0.lean ====
section
/-! SUPPORT. Tests of the model, their expected values taken from the spec (`95_test_vectors.md` V1 to V63 and the
tables of the rules), and for each statement with hypotheses a concrete state and operands that meet them. -/

namespace Sys2Proof.Tests

set_option Elab.async false

open Sys2Proof.Machine Sys2Proof.Claims

/-! ### Helpers -/

/-- The cells of a byte string at an address. -/
def cellsAt (a : Nat) (bs : Bytes) : List Host.Cell := List.zipWith (fun i b => (a + i, b)) (List.range bs.length) bs

/-- DMEM with these byte strings written, in the order of their addresses. -/
def memory (regions : List (Nat × Bytes)) : Memory := { cells := regions.flatMap fun r => cellsAt r.1 r.2, powerOn := 0 }

theorem lookupCell_cellsAt (a : Nat) (bs : Bytes) (rest : List Host.Cell) (j : Nat) :
    lookupCell (cellsAt a bs ++ rest) j = if a ≤ j ∧ j < a + bs.length then bs[j - a]? else lookupCell rest j := by
  unfold cellsAt
  induction bs generalizing a with
  | nil => simp
  | cons b bs ih =>
    have h : List.zipWith (fun i b => (a + i, b)) (List.range (b :: bs).length) (b :: bs) =
        (a, b) :: List.zipWith (fun i b => (a + 1 + i, b)) (List.range bs.length) bs := by
      simp only [List.length_cons, List.range_succ_eq_map, List.zipWith_cons_cons, Nat.add_zero, List.zipWith_map_left]
      congr 1
      congr 1
      funext i b
      congr 1
      omega
    rw [h, List.cons_append, lookupCell, ih]
    simp only [List.length_cons]
    by_cases h0 : a = j
    · subst h0; simp
    · by_cases h1 : a + 1 ≤ j ∧ j < a + 1 + bs.length
      · rw [if_neg h0, if_pos h1, if_pos (by omega), show j - a = (j - (a + 1)) + 1 by omega, List.getElem?_cons_succ]
      · rw [if_neg h0, if_neg h1, if_neg (by omega)]

/-- The first region reads back. -/
theorem memory_read_first (a n : Nat) (bs : Bytes) (rest : List (Nat × Bytes)) (h : bs.length = n) :
    (memory ((a, bs) :: rest)).read a n = bs := by
  subst h
  refine List.ext_getElem (by simp) fun k h1 h2 => ?_
  rw [Memory.read_getElem]
  simp only [Memory.byte, memory, List.flatMap_cons, lookupCell_cellsAt]
  rw [if_pos (by omega)]
  simp [h2]

/-- A region apart from the first reads as without it. -/
theorem memory_read_rest (a n a' : Nat) (bs : Bytes) (rest : List (Nat × Bytes)) (h : a' + bs.length ≤ a) :
    (memory ((a', bs) :: rest)).read a n = (memory rest).read a n := by
  refine Memory.read_congr _ _ _ _ fun k _ => ?_
  simp only [Memory.byte, memory, List.flatMap_cons, lookupCell_cellsAt]
  rw [if_neg (by omega)]

/-- The in-flight record of a command with the first ARG values, the rest 0. -/
def record (i : Instr) (a : List Word) (x : Bool := false) : InFlight :=
  let A : Args := { a0 := a.getD 0 0, a1 := a.getD 1 0, a2 := a.getD 2 0, a3 := a.getD 3 0
                    a4 := a.getD 4 0, a5 := a.getD 5 0, a6 := a.getD 6 0, a7 := a.getD 7 0 }
  { word := encode i, args := A, extRand := x }

/-- The state after reset but for a command in flight and this DMEM. -/
def running (c : InFlight) (m : Memory) : State :=
  { State.reset with cmdLast := c.word, args := c.args, inflight := some c, dmem := m }

theorem running_inflight (c : InFlight) (m : Memory) : (running c m).inflight = some c := rfl

/-- ERRCODE, VALID, RESULT_LEN and `n` bytes at `dst` after a completion. -/
def report (i : Instr) (s : State) (dst n : Nat) : Option (Word × Bool × Word × Bytes) :=
  match exec i s with
  | .next t => some (t.errcode, t.status.valid, t.resultLen, t.dmem.read dst n)
  | .fault _ => none
  | .refused _ => none

/-- The next state of an outcome, and a given state where there is none. -/
def nextOf (o : Host.Outcome State Fault Refusal) (s : State) : State :=
  match o with
  | .next t => t
  | .fault _ => s
  | .refused _ => s

theorem exec_nextOf (i : Instr) (c : InFlight) (m : Memory) (s : State) :
    exec i (running c m) = .next (nextOf (exec i (running c m)) s) := by
  obtain ⟨d, hd⟩ := exec_inflight i (running_inflight c m)
  rw [hd]
  rfl

/-- Steps 2 and 3 of the operand checks, computed. -/
def regionsInside (i : Instr) (A : Args) (x : Bool) : Bool :=
  (!takesRsaKey i || decide (KeyLengthOk A)) && (inputs i A x).all (fun r => decide (Inside r.1 r.2)) &&
    (output i A).all fun o => decide (Inside o.1 o.2)

/-- Step 4 of the operand checks, computed. -/
def outputApart (i : Instr) (A : Args) (x : Bool) : Bool :=
  (output i A).all fun o => (inputs i A x).all fun r => !decide (Overlaps o.1 o.2 r.1 r.2)

theorem regionsInside_iff (i : Instr) (A : Args) (x : Bool) : regionsInside i A x = true ↔ RegionsInside i A x := by
  simp only [regionsInside, RegionsInside, Bool.and_eq_true, Bool.or_eq_true, Bool.not_eq_true', decide_eq_true_eq,
    List.all_eq_true, Option.all_eq_true_iff_get]
  constructor
  · rintro ⟨⟨h1, h2⟩, h3⟩
    refine ⟨fun h => ?_, h2, fun r hr => ?_⟩
    · rcases h1 with h1 | h1
      · rw [h1] at h; cases h
      · exact h1
    · have h := h3 (by rw [hr]; rfl)
      simpa [hr] using h
  · rintro ⟨h1, h2, h3⟩
    refine ⟨⟨?_, h2⟩, fun h => h3 _ (Option.some_get h).symm⟩
    cases hk : takesRsaKey i with
    | false => exact .inl rfl
    | true => exact .inr (h1 hk)

theorem outputApart_iff (i : Instr) (A : Args) (x : Bool) : outputApart i A x = true ↔ OutputApart i A x := by
  unfold outputApart OutputApart
  cases output i A with
  | none => simp
  | some o =>
    simp only [Option.all_some, List.all_eq_true, Bool.not_eq_true', decide_eq_false_iff_not, Option.some.injEq,
      forall_eq']

/-- The operand checks of a concrete command pass. -/
theorem checks {i : Instr} {A : Args} {x : Bool} (h : (regionsInside i A x && outputApart i A x) = true) :
    ChecksPass i A x := by
  rw [Bool.and_eq_true] at h
  exact ⟨(regionsInside_iff i A x).1 h.1, (outputApart_iff i A x).1 h.2⟩

/-! ### Command words -/

/-- An ill-formed word for each check of well-formedness, which the check refuses, and decode with it. -/
theorem test_wellFormed_refuses :
    wordReservedZero 0x00010001 = false ∧ wordReservedZero 0x80000002 = false ∧
    wordOpcodeDefined 0x00000000 = false ∧ wordOpcodeDefined 0x00000006 = false ∧ wordOpcodeDefined 0x0000000C = false ∧
    wordOpcodeDefined 0x0000000F = false ∧ wordOpcodeDefined 0x00000017 = false ∧ wordOpcodeDefined 0x0000001E = false ∧
    wordOpcodeDefined 0x000000FF = false ∧
    wordFlagsLegal 0x00000201 = false ∧ wordFlagsLegal 0x00008004 = false ∧ wordFlagsLegal 0x00000102 = false := by
  decide

/-- The same words, and those of `95_test_vectors.md` V6, are refused by the decoder by name. -/
theorem test_decode_refuses :
    decode 0x00010001 = .error .reservedBits ∧ decode 0x00000000 = .error .reservedOpcode ∧
    decode 0x00000006 = .error .reservedOpcode ∧ decode 0x00000007 = .error .reservedOpcode ∧
    decode 0x0000000F = .error .reservedOpcode ∧ decode 0x00000017 = .error .reservedOpcode ∧
    decode 0x0000001E = .error .reservedOpcode ∧ decode 0x00000201 = .error .undefinedFlagBits ∧
    decode 0x00000304 = .error .undefinedFlagBits ∧ decode 0x00000102 = .error .flagsNotZero := by
  decide

/-! Each constructor's decoding, on the word of the table of `30_encoding.md` R94. -/

theorem test_decode_sha256 : decode 0x00000001 = .ok (.sha256 false) ∧ decode 0x00000101 = .ok (.sha256 true) := by decide

theorem test_decode_hmacSha256 : decode 0x00000002 = .ok .hmacSha256 := by decide

theorem test_decode_hmacVerify : decode 0x00000003 = .ok .hmacVerify := by decide

theorem test_decode_b64uEncode : decode 0x00000004 = .ok (.b64uEncode false) ∧ decode 0x00000104 = .ok (.b64uEncode true) := by decide

theorem test_decode_b64uDecode : decode 0x00000005 = .ok .b64uDecode := by decide

theorem test_decode_emsaPkcs1Encode : decode 0x00000008 = .ok .emsaPkcs1Encode := by decide

theorem test_decode_mgf1 : decode 0x00000009 = .ok .mgf1 := by decide

theorem test_decode_emsaPssEncode : decode 0x0000000A = .ok .emsaPssEncode := by decide

theorem test_decode_emsaPssVerify : decode 0x0000000B = .ok .emsaPssVerify := by decide

theorem test_decode_i2osp : decode 0x00000010 = .ok .i2osp := by decide

theorem test_decode_rsasp1 : decode 0x00000011 = .ok .rsasp1 := by decide

theorem test_decode_rsavp1 : decode 0x00000012 = .ok .rsavp1 := by decide

theorem test_decode_rs256Sign : decode 0x00000013 = .ok .rs256Sign := by decide

theorem test_decode_rs256Verify : decode 0x00000014 = .ok .rs256Verify := by decide

theorem test_decode_ps256Sign : decode 0x00000015 = .ok .ps256Sign := by decide

theorem test_decode_ps256Verify : decode 0x00000016 = .ok .ps256Verify := by decide

theorem test_decode_ecDouble : decode 0x00000018 = .ok .ecDouble := by decide

theorem test_decode_ecAdd : decode 0x00000019 = .ok .ecAdd := by decide

theorem test_decode_ecScalarMul : decode 0x0000001A = .ok .ecScalarMul := by decide

theorem test_decode_ecOnCurve : decode 0x0000001B = .ok .ecOnCurve := by decide

theorem test_decode_es256Sign : decode 0x0000001C = .ok .es256Sign := by decide

theorem test_decode_es256Verify : decode 0x0000001D = .ok .es256Verify := by decide

/-! ### The algorithms, on the spec's vectors -/

/-- `95_test_vectors.md` V1. -/
theorem test_sha256_abc : sha256 [0x61, 0x62, 0x63] =
    i2osp 0xba7816bf8f01cfea414140de5dae2223b00361a396177a9cb410ff61f20015ad 32 := by
  decide +kernel

/-- `95_test_vectors.md` V3: the empty message, and 56 bytes, which take two blocks. -/
theorem test_sha256_blocks :
    sha256 [] = i2osp 0xe3b0c44298fc1c149afbf4c8996fb92427ae41e4649b934ca495991b7852b855 32 ∧
    sha256 (List.replicate 56 0x61) = i2osp 0xb35439a4ac6f0948b6d6f9e3c6af0f5f590ce20f1bde7090ef7970686ec6738a 32 := by
  decide +kernel

/-- `40_sha256.md` R129: the text of 0xBA 0x78 is "ba78". -/
theorem test_hexText : hexText [0xBA, 0x78] = [0x62, 0x61, 0x37, 0x38] := by decide

/-- `95_test_vectors.md` V10. -/
theorem test_hmac : hmac (List.replicate 20 0x0b) [0x48, 0x69, 0x20, 0x54, 0x68, 0x65, 0x72, 0x65] =
    i2osp 0xb0344c61d8db38535ca8afceaf0bf12b881dc200c9833da726e9376c2e32cff7 32 := by
  decide +kernel

/-- `95_test_vectors.md` V20: "f" with and without padding, and the two last letters of the alphabet. -/
theorem test_b64Encode : b64Encode true [0x66] = [0x5a, 0x67, 0x3d, 0x3d] ∧ b64Encode false [0x66] = [0x5a, 0x67] ∧
    b64Encode true [0xfb, 0xff] = [0x2d, 0x5f, 0x38, 0x3d] := by
  decide

/-- `95_test_vectors.md` V22 and V23. -/
theorem test_b64Decode : b64Validate [0x5a, 0x67, 0x3d] = .ok 1 ∧ b64Decode [0x5a, 0x67, 0x3d] 1 = [0x66] ∧
    b64Decode [0x5a, 0x68] 1 = [0x66] ∧ b64Validate [0x5a, 0x67, 0x3d, 0x3d, 0x3d] = .error .b64BadPad ∧
    b64Validate [0x5a, 0x3d, 0x67] = .error .b64BadPad ∧ b64Validate [0x3d, 0x3d] = .error .b64BadPad ∧
    b64Validate [0x2b, 0x2f, 0x38, 0x3d] = .error .b64BadChar := by
  decide

/-- `95_test_vectors.md` V32: the empty seed. -/
theorem test_mgf1 : mgf1 [] 5 = [0xdf, 0x3f, 0x61, 0x98, 0x04] := by decide +kernel

/-- `95_test_vectors.md` V41. -/
theorem test_modExp : modExp 65 17 3233 = 2790 ∧ modExp 2790 2753 3233 = 65 ∧ modExp 0 0 3233 = 1 ∧ modExp 0 0 1 = 0 := by
  decide

/-- `95_test_vectors.md` V51: 2G, and an off-curve point. -/
theorem test_pointDouble :
    pointDouble curveG = .ok (.affine 0x7cf27b188d034f7e8a52380304b51ac3c08969e277f21b35a60b48fc47669978
      0x07775510db8ed040293d9ac69f7430dbba7dade63ce982299e04b79d227873d1) ∧
    pointDouble (.affine 1 2) = .ok (.affine (curveQ - 2) (curveQ - 2)) ∧
    pointDouble (.affine 5 0) = .error .noInverse := by
  decide +kernel

/-- `95_test_vectors.md` V52: the third and fourth case in their order, the uncovered case, and a chord. -/
theorem test_pointAdd :
    pointAdd (.affine 5 0) (.affine 5 0) = .ok .identity ∧
    pointAdd (.affine 1 2) (.affine 1 3) = .error .noInverse ∧
    pointAdd (.affine 1 2) (.affine 2 3) = .ok (.affine (curveQ - 2) 1) := by
  decide +kernel

/-- `95_test_vectors.md` V53: [7]G, and no doubling after the top bit. -/
theorem test_scalarMultiply :
    scalarMultiply curveG 7 = .ok (.affine 0x8e533b6fa0bf7b4625bb30667c01fb607ef9f8b8a80fef5b300628703187b2a3
      0x73eb1dbde03318366d069f83a6f5900053c73633cb041b21c55e1a86c1f400b4) ∧
    scalarMultiply (.affine 5 0) 1 = .ok (.affine 5 0) ∧ scalarMultiply (.affine 5 0) 2 = .error .noInverse := by
  decide +kernel

/-- `95_test_vectors.md` V50 and V54. -/
theorem test_isOnCurve : isOnCurve curveG = true ∧ isOnCurve (.affine curveGx (curveGy + 1)) = false ∧
    isOnCurve (.affine 0 0) = false ∧ isOnCurve .identity = false := by
  decide +kernel

/-! ### One completion of each command -/

/-- `95_test_vectors.md` V4: a message that ends at DMEM_BYTES, and one that does not fit. -/
theorem test_exec_sha256 :
    report (.sha256 false) (running (record (.sha256 false) [0xFFFD, 3, 0x100]) (memory [(0xFFFD, [0x61, 0x62, 0x63])])) 0x100 4 =
      some (0, false, 32, [0xba, 0x78, 0x16, 0xbf]) ∧
    report (.sha256 false) (running (record (.sha256 false) [0xFFFD, 4, 0x100]) (memory [])) 0 0 =
      some (0x1002, false, 0, []) := by
  decide +kernel

/-- `41_hmac.md` R141: the tag is written at ARG4 (the value is that of V10). -/
theorem test_exec_hmacSha256 :
    report .hmacSha256 (running (record .hmacSha256 [0, 20, 0x100, 8, 0x200])
      (memory [(0, List.replicate 20 0x0b), (0x100, [0x48, 0x69, 0x20, 0x54, 0x68, 0x65, 0x72, 0x65])])) 0x200 4 =
      some (0, false, 32, [0xb0, 0x34, 0x4c, 0x61]) := by
  decide +kernel

/-- `41_hmac.md` R142: a tag of 31 bytes is false, not an error. -/
theorem test_exec_hmacVerify :
    report .hmacVerify (running (record .hmacVerify [0, 0, 0, 0, 0x200, 31]) (memory [])) 0 0 =
      some (0, false, 0, []) := by
  decide +kernel

/-- `95_test_vectors.md` V20, and the overlap of V5's kind. -/
theorem test_exec_b64uEncode :
    report (.b64uEncode true) (running (record (.b64uEncode true) [0, 2, 0x100]) (memory [(0, [0xfb, 0xff])])) 0x100 4 =
      some (0, false, 4, [0x2d, 0x5f, 0x38, 0x3d]) ∧
    report (.b64uEncode false) (running (record (.b64uEncode false) [0, 3, 2]) (memory [])) 0 0 =
      some (0x1102, false, 0, []) := by
  decide +kernel

/-- `95_test_vectors.md` V23: the text is validated before the output region is checked. -/
theorem test_exec_b64uDecode :
    report .b64uDecode (running (record .b64uDecode [0, 3, 0x100]) (memory [(0, [0x5a, 0x6d, 0x39])])) 0x100 2 =
      some (0, false, 2, [0x66, 0x6f]) ∧
    report .b64uDecode (running (record .b64uDecode [0, 4, 0xFFFF]) (memory [(0, [0x5a, 0x2b, 0x67, 0x3d])])) 0 0 =
      some (0x0101, false, 0, []) := by
  decide +kernel

/-- `95_test_vectors.md` V30 (the head and the length) and V31. -/
theorem test_exec_emsaPkcs1Encode :
    report .emsaPkcs1Encode (running (record .emsaPkcs1Encode [0, 62, 0x100]) (memory [(0, List.replicate 32 0xAA)]))
      0x100 12 = some (0, false, 62, [0x00, 0x01, 0xff, 0xff, 0xff, 0xff, 0xff, 0xff, 0xff, 0xff, 0x00, 0x30]) ∧
    report .emsaPkcs1Encode (running (record .emsaPkcs1Encode [0, 61, 0x100]) (memory [(0, List.replicate 32 0xAA)]))
      0 0 = some (0x2304, false, 0, []) := by
  decide +kernel

/-- `95_test_vectors.md` V32: the seed "abc". -/
theorem test_exec_mgf1 :
    report .mgf1 (running (record .mgf1 [0, 3, 1, 0x100]) (memory [(0, [0x61, 0x62, 0x63])])) 0x100 1 = some (0, false, 1, [0xcf]) := by
  decide +kernel

/-- `95_test_vectors.md` V34: the first and the last byte of the encoding; and ENC_ERROR one byte below the limit
(`43_rsa_padding.md` R176). -/
theorem test_exec_emsaPssEncode :
    (report .emsaPssEncode (running (record .emsaPssEncode [0, 3, 32, 1023, 0x100, 0x80] true)
      (memory [(0, [0x61, 0x62, 0x63]), (0x80, (List.range 32).map (BitVec.ofNat 8))])) 0x100 4 =
        some (0, false, 128, [0x54, 0x61, 0xd1, 0x81])) ∧
    report .emsaPssEncode (running (record .emsaPssEncode [0, 3, 32, 520, 0x100, 0x80] true)
      (memory [(0, [0x61, 0x62, 0x63]), (0x80, (List.range 32).map (BitVec.ofNat 8))])) 0 0 = some (0x2404, false, 0, []) := by
  decide +kernel

/-- `43_rsa_padding.md` R178: a last byte other than 0xBC is false. -/
theorem test_exec_emsaPssVerify :
    report .emsaPssVerify (running (record .emsaPssVerify [0, 0, 0, 272, 0x100, 34])
      (memory [(0x100, List.replicate 34 0x00)])) 0 0 = some (0, false, 0, []) := by
  decide +kernel

/-- `95_test_vectors.md` V40. -/
theorem test_exec_i2osp :
    report .i2osp (running (record .i2osp [0, 4, 6, 0x100]) (memory [(0, [0, 0, 1, 2])])) 0x100 6 =
      some (0, false, 6, [0, 0, 0, 0, 1, 2]) ∧
    report .i2osp (running (record .i2osp [0, 4, 1, 0x100]) (memory [(0, [0, 0, 1, 2])])) 0 0 =
      some (0x2104, false, 0, []) := by
  decide +kernel

/-- `95_test_vectors.md` V41. -/
theorem test_exec_rsasp1 :
    report .rsasp1 (running (record .rsasp1 [16, 0, 2, 4, 8]) (memory [(0, [0x0C, 0xA1, 0x0A, 0xC1, 0x0A, 0xE6])])) 8 2 =
      some (0, false, 2, [0x00, 0x41]) ∧
    report .rsasp1 (running (record .rsasp1 [12, 0, 2, 4, 8]) (memory [])) 0 0 = some (0x1202, false, 0, []) := by
  decide +kernel

/-- `95_test_vectors.md` V41. -/
theorem test_exec_rsavp1 :
    report .rsavp1 (running (record .rsavp1 [16, 0, 2, 4, 8]) (memory [(0, [0x0C, 0xA1, 0x00, 0x11, 0x00, 0x41])])) 8 2 =
      some (0, false, 2, [0x0a, 0xe6]) ∧
    report .rsavp1 (running (record .rsavp1 [16, 0, 2, 4, 8]) (memory [(0, [0x0C, 0xA1, 0x00, 0x11, 0x0C, 0xA1])])) 0 0 =
      some (0x2004, false, 0, []) := by
  decide +kernel

/-- `44_rsa_engine.md` R207: bitLength 488 is ENC_TOO_SHORT. -/
theorem test_exec_rs256Sign :
    report .rs256Sign (running (record .rs256Sign [488, 0, 0, 0, 0, 0x100]) (memory [(0, List.replicate 61 0xFF)])) 0 0 =
      some (0x2304, false, 0, []) := by
  decide +kernel

/-- `44_rsa_engine.md` R208: SIG_LENGTH comes before ENC_TOO_SHORT. -/
theorem test_exec_rs256Verify :
    report .rs256Verify (running (record .rs256Verify [8, 0, 0, 0, 0, 0, 2]) (memory [(0, [0x05, 0x05])])) 0 0 =
      some (0x1502, false, 0, []) := by
  decide +kernel

/-- `44_rsa_engine.md` R210: bitLength 520 is ENC_ERROR. -/
theorem test_exec_ps256Sign :
    report .ps256Sign (running (record .ps256Sign [520, 0, 0, 0, 0, 0x100, 0]) (memory [(0, List.replicate 65 0xFF)]))
      0 0 = some (0x2404, false, 0, []) := by
  decide +kernel

/-- `44_rsa_engine.md` R211: kLen < 66 is false, not an error. -/
theorem test_exec_ps256Verify :
    report .ps256Verify (running (record .ps256Verify [8, 0, 0, 0, 0, 1, 1]) (memory [(0, [0x05, 0x03])])) 0 0 =
      some (0, false, 0, []) := by
  decide +kernel

/-- `95_test_vectors.md` V51: Identity with any coordinate bytes, and a wrong tag. -/
theorem test_exec_ecDouble :
    report .ecDouble (running (record .ecDouble [0, 0x100]) (memory [(0, 0x00 :: List.replicate 64 0x55)])) 0x100 65 =
      some (0, false, 65, List.replicate 65 0x00) ∧
    report .ecDouble (running (record .ecDouble [0, 0x100]) (memory [(0, 0x02 :: List.replicate 64 0x55)])) 0 0 =
      some (0x1302, false, 0, []) := by
  decide +kernel

/-- `95_test_vectors.md` V52: P and Q may be one region, which gives the doubling. -/
theorem test_exec_ecAdd :
    report .ecAdd (running (record .ecAdd [0, 0, 0x100]) (memory [(0, (0x04 :: (i2osp curveGx 32 ++ i2osp curveGy 32)))])) 0x100 5 =
      some (0, false, 65, [0x04, 0x7c, 0xf2, 0x7b, 0x18]) := by
  decide +kernel

/-- `95_test_vectors.md` V53: [3]G. -/
theorem test_exec_ecScalarMul :
    report .ecScalarMul (running (record .ecScalarMul [0, 65, 0x100]) (memory [(0, (0x04 :: (i2osp curveGx 32 ++ i2osp curveGy 32))), (65, i2osp 3 32)]))
      0x100 5 = some (0, false, 65, [0x04, 0x5e, 0xcb, 0xe4, 0xd1]) := by
  decide +kernel

/-- `95_test_vectors.md` V54: G, and a coordinate that is not below q. -/
theorem test_exec_ecOnCurve :
    report .ecOnCurve (running (record .ecOnCurve [0]) (memory [(0, (0x04 :: (i2osp curveGx 32 ++ i2osp curveGy 32)))])) 0 0 = some (0, true, 0, []) ∧
    report .ecOnCurve (running (record .ecOnCurve [0])
      (memory [(0, 0x04 :: (i2osp curveQ 32 ++ i2osp curveGy 32))])) 0 0 = some (0, false, 0, []) := by
  decide +kernel

/-- `95_test_vectors.md` V62: d = n, and the nonce k = 1 that makes s = 0. -/
theorem test_exec_es256Sign :
    report .es256Sign (running (record .es256Sign [0, 0, 0, 0x100]) (memory [(0, i2osp curveN 32)])) 0 0 =
      some (0x1202, false, 0, []) ∧
    report .es256Sign (running (record .es256Sign [0x200, 0x240, 3, 0x300, 0x260] true)
      (memory [(0x200, i2osp 0x51bf071c057139866e18bc0fc4cf54917305b84240c06ab7c8f4a19ff7289159 32), (0x240, [0x61, 0x62, 0x63]),
        (0x260, i2osp 1 32)])) 0 0 = some (0x2604, false, 0, []) := by
  decide +kernel

/-- `95_test_vectors.md` V61: a signature of 63 bytes, and r = 0 with a key off the curve. -/
theorem test_exec_es256Verify :
    report .es256Verify (running (record .es256Verify [0, 0, 0, 0x180, 63]) (memory [])) 0 0 =
      some (0x1502, false, 0, []) ∧
    report .es256Verify (running (record .es256Verify [0, 0, 0, 0x180, 64])
      (memory [(0, 0x04 :: (i2osp 1 32 ++ i2osp 1 32)), (0x180, i2osp 0 32 ++ i2osp 1 32)])) 0 0 =
      some (0, false, 0, []) := by
  decide +kernel

/-! ### The host port -/

/-- `20_memory.md` R68: the byte string "abc" reads as a word whose lowest byte is the first one, and `95_test_vectors.md` V1's first read. -/
theorem test_lanes : lanesToWord [0x61, 0x62, 0x63, 0x00] = 0x00636261 ∧ lanesToWord [0xba, 0x78, 0x16, 0xbf] = 0xbf1678ba ∧
    wordToLanes 0xbf1678ba 4 = [0xba, 0x78, 0x16, 0xbf] := by
  decide

/-- `95_test_vectors.md`, the start state: the registers after reset, read through the port. -/
theorem test_reset_reads :
    (State.reset.hostRead .word 0x00000).1 = 0x4A575443 ∧ (State.reset.hostRead .word 0x00004).1 = 0x00010000 ∧
    (State.reset.hostRead .word 0x0000C).1 = 0 ∧ (State.reset.hostRead .word 0x00020).1 = 0 ∧
    (State.reset.hostRead .byte 0x00000).1 = 0 ∧ (State.reset.hostRead .byte 0x00000).2.statusWord = 0x20 := by
  decide

/-- Issue, overrun and completion of an undefined word, STATUS as `10_state.md` R24 lays it out: BUSY; BUSY and
CMD_OVERRUN; then DONE, ERR and CMD_OVERRUN with ERRCODE 0x3003 (`60_exceptions.md` R302). -/
theorem test_overrun :
    (State.reset.hostWrite .word 0x00010 0x1E).statusWord = 0x01 ∧
    ((State.reset.hostWrite .word 0x00010 0x1E).hostWrite .word 0x00010 0x01).statusWord = 0x11 ∧
    (nextOf (step ((State.reset.hostWrite .word 0x00010 0x1E).hostWrite .word 0x00010 0x01)) State.reset).statusWord = 0x16 ∧
    (nextOf (step ((State.reset.hostWrite .word 0x00010 0x1E).hostWrite .word 0x00010 0x01)) State.reset).errcode =
      0x3003 := by
  decide

/-- The first step after reset with a word placed runs that word's command (log entry 6). -/
theorem test_withFetchWord : step (State.reset.withFetchWord 32 0x101) = exec (.sha256 true) (State.reset.accept 0x101) := rfl

/-! ### Witnesses: states and operands that meet the hypotheses of the statements -/

/-- The record of EC_ON_CURVE on the operand at 0, which holds Identity. -/
def onCurveRecord : InFlight := record .ecOnCurve [0]

/-- A state with that command in flight. -/
def onCurveState : State := running onCurveRecord (memory [(0, List.replicate 65 0x00)])

theorem witness_DecodeEncodeAgree : (Instr.es256Verify).wellFormed = true ∧ decode 0x0000001D = .ok .es256Verify := by
  decide

theorem witness_DecodeChecksInOrder :
    wordReservedZero 0x00010000 = false ∧
    (wordReservedZero 0x0000FF1E = true ∧ wordOpcodeDefined 0x0000FF1E = false) ∧
    (wordReservedZero 0x00000201 = true ∧ wordOpcodeDefined 0x00000201 = true ∧
      (0x00000201 : Word).toNat % 256 = 0x01 ∧ (0x00000201 : Word).toNat / 512 ≠ 0) ∧
    (wordReservedZero 0x00000104 = true ∧ wordOpcodeDefined 0x0000FF04 = true ∧
      (0x0000FF04 : Word).toNat % 256 = 0x04 ∧ (0x0000FF04 : Word).toNat / 512 ≠ 0) ∧
    (wordReservedZero 0x0000011D = true ∧ wordOpcodeDefined 0x0000011D = true ∧ (0x0000011D : Word).toNat % 256 ≠ 0x01 ∧
      (0x0000011D : Word).toNat % 256 ≠ 0x04 ∧ (0x0000011D : Word).toNat / 256 ≠ 0) ∧
    wordWellFormed 0x00000104 = true := by
  decide

theorem witness_StepRunsDecodedCommand :
    onCurveState.inflight = some onCurveRecord ∧ decode onCurveRecord.word = .ok .ecOnCurve ∧
    (Instr.ecOnCurve).wellFormed = true ∧ onCurveState.turns = [] ∧
    ({ onCurveState with turns := [.completion, .resetInput] } : State).turns = .completion :: [.resetInput] :=
  ⟨rfl, rfl, rfl, rfl, rfl⟩

/-- A state with a reserved opcode in flight, and one with a nonzero undefined FLAGS bit. -/
theorem witness_IllegalWordsComplete :
    (running { onCurveRecord with word := 0x1E } (memory [])).inflight = some { onCurveRecord with word := 0x1E } ∧
    wordWellFormed 0x1E = false ∧ (running { onCurveRecord with word := 0x1E } (memory [])).turns = [] ∧
    wordWellFormed 0x201 = false ∧
    ({ running { onCurveRecord with word := 0x201 } (memory []) with turns := [.completion] } : State).turns =
      .completion :: [] := by
  decide

/-- An idle state with ERR = 1 that meets the invariant, and a busy one, each with a next state. -/
theorem witness_StepKeepsInvariant :
    (Invariant (failed State.reset 0x1002) ∧ step (failed State.reset 0x1002) = .next (failed State.reset 0x1002)) ∧
    Invariant (State.reset.accept 0x1E) ∧
      step (State.reset.accept 0x1E) = .next (failed (State.reset.accept 0x1E) 0x3003) := by
  refine ⟨⟨⟨by decide, .inr ⟨.outOfBounds, by decide, by decide⟩, by decide, by decide, fun h => absurd h (by decide), by decide, ?_⟩, rfl⟩,
    ⟨⟨by decide, .inl rfl, by decide, by decide, fun h => absurd h (by decide), by decide, ?_⟩, rfl⟩⟩
  · intro c hc
    cases hc
  · intro c hc
    cases hc
    decide

theorem witness_ResetState :
    (State.reset = State.reset) ∧
    (({ onCurveState with turns := [.resetInput] } : State).turns = .resetInput :: [] ∧
      step { onCurveState with turns := [.resetInput] } = .next (onCurveState.resetInput)) ∧
    (({ onCurveState with turns := [.powerOn] } : State).turns = .powerOn :: [] ∧
      step { onCurveState with turns := [.powerOn] } = .next (onCurveState.powerOnReset)) :=
  ⟨rfl, ⟨rfl, rfl⟩, ⟨rfl, rfl⟩⟩

theorem witness_ResetAndDmem :
    ({ onCurveState with turns := [.resetInput] } : State).turns = .resetInput :: [] ∧
    ({ onCurveState with turns := [.powerOn] } : State).turns = .powerOn :: [] :=
  ⟨rfl, rfl⟩

theorem witness_CommandIssue :
    (({ onCurveState with turns := [.host (.write .word 0x00010 0x1B)] } : State).turns =
        .host (.write .word 0x00010 0x1B) :: [] ∧ onCurveState.inflight ≠ none) ∧
    ({ State.reset with turns := [.host (.write .word 0x00010 0x1B)] } : State).turns =
        .host (.write .word 0x00010 0x1B) :: [] ∧ State.reset.inflight = none := by
  decide

/-- A command in flight with a host read before its completion, and one with no event to come. -/
theorem witness_CoreGoesIdle :
    onCurveState.inflight = some onCurveRecord ∧ (∀ e ∈ onCurveState.turns, e ≠ .resetInput ∧ e ≠ .powerOn) ∧
    ∀ e ∈ ({ onCurveState with turns := [.host (.read .word 0x0000C), .completion] } : State).turns,
      e ≠ .resetInput ∧ e ≠ .powerOn := by
  decide

/-- A read and a write as the next event. -/
theorem witness_StepTakesHostAccess :
    ({ onCurveState with turns := [.host (.read .word 0x0000C)] } : State).turns =
      .host (.read .word 0x0000C) :: [] ∧
    ({ onCurveState with turns := [.host (.write .half 0x10002 0x1234)] } : State).turns =
      .host (.write .half 0x10002 0x1234) :: [] := by
  decide

/-- The first reserved bits; and STATUS = 0x06 after an error, 0x0A after a true answer (`10_state.md` R24). -/
theorem witness_StatusAndControlRead :
    6 ≤ 6 ∧ 2 ≤ 2 ∧ (failed onCurveState 0x1302).hostRead .word 0x0000C = (0x06, failed onCurveState 0x1302) ∧
    (answered onCurveState true).hostRead .word 0x0000C = (0x0A, answered onCurveState true) := by
  decide

/-- The first and the last place of DMEM for each size, and the last register. -/
theorem witness_ByteLanes :
    State.reset.inflight = none ∧
    (0x10000 : Offset).toNat = 0x10000 + 0 ∧ 0 % AccessSize.word.bytes = 0 ∧
    (0x1FFFC : Offset).toNat = 0x10000 + 65532 ∧ 65532 % AccessSize.word.bytes = 0 ∧
    (0x1FFFE : Offset).toNat = 0x10000 + 65534 ∧ 65534 % AccessSize.half.bytes = 0 ∧
    (0x1FFFF : Offset).toNat = 0x10000 + 65535 ∧ 65535 % AccessSize.byte.bytes = 0 ∧
    (0x00FFC : Offset).toNat < 0x1000 ∧ (0x00FFC : Offset).toNat % 4 = 0 := by
  decide

theorem witness_BusyDropsAccesses :
    onCurveState.inflight ≠ none ∧
    0x10000 ≤ (0x10000 : Offset).toNat ∧ 0x10000 ≤ (0x1FFFF : Offset).toNat ∧
    ((0x00020 : Offset).toNat % 4 = 0 ∧ 0x020 ≤ (0x00020 : Offset).toNat ∧ (0x00020 : Offset).toNat < 0x040) ∧
    ((0x0003C : Offset).toNat % 4 = 0 ∧ 0x020 ≤ (0x0003C : Offset).toNat ∧ (0x0003C : Offset).toNat < 0x040) ∧
    (0x00FFC : Offset).toNat % 4 = 0 ∧ (0x00FFC : Offset).toNat < 0x1000 := by
  decide

theorem witness_MisalignedAccesses :
    ((0x00FFE : Offset).toNat < 0x1000 ∧ (0x00FFE : Offset).toNat % 4 ≠ 0) ∧
    ((0x00FFC : Offset).toNat < 0x1000 ∧ AccessSize.half.bytes ≠ 4) ∧
    ((0x00FFC : Offset).toNat < 0x1000 ∧ AccessSize.word.bytes = 4 ∧ (0x00FFC : Offset).toNat % 4 = 0) ∧
    (0x10000 ≤ (0x10001 : Offset).toNat ∧ (0x10001 : Offset).toNat % AccessSize.half.bytes ≠ 0) ∧
    (0x10000 ≤ (0x10000 : Offset).toNat ∧ (0x10000 : Offset).toNat % AccessSize.word.bytes = 0 ∧
      State.reset.inflight = none) := by
  decide

/-- The unimplemented registers at the ends of their ranges, and the first and the last unmapped offset. -/
theorem witness_IgnoredAccesses :
    ((0x0001C : Offset).toNat % 4 = 0 ∧ (0x0001C : Offset).toNat = 0x01C) ∧
    ((0x00040 : Offset).toNat % 4 = 0 ∧ 0x040 ≤ (0x00040 : Offset).toNat ∧ (0x00040 : Offset).toNat < 0x1000) ∧
    ((0x00FFC : Offset).toNat % 4 = 0 ∧ 0x040 ≤ (0x00FFC : Offset).toNat ∧ (0x00FFC : Offset).toNat < 0x1000) ∧
    (0x1000 ≤ (0x01000 : Offset).toNat ∧ (0x01000 : Offset).toNat < 0x10000) ∧
    (0x1000 ≤ (0x0FFFF : Offset).toNat ∧ (0x0FFFF : Offset).toNat < 0x10000) := by
  decide

theorem witness_RegisterWritesStore :
    State.reset.inflight = none ∧ (0x00020 : Offset).toNat = 0x020 + 4 * (0 : Fin 8).val ∧
    (0x0003C : Offset).toNat = 0x020 + 4 * (7 : Fin 8).val := by
  decide

theorem witness_InterruptLevel :
    exec .ecOnCurve onCurveState = .next (nextOf (exec .ecOnCurve onCurveState) onCurveState) ∧
    (0x00000001 : Word).getLsbD 0 = true ∧ (0x00000002 : Word).getLsbD 0 = false ∧ (0x00000002 : Word).getLsbD 1 = true ∧
    State.reset.inflight = none :=
  ⟨exec_nextOf _ _ _ _, rfl, rfl, rfl, rfl⟩

theorem witness_HostReadEffects :
    ((0x00FFE : Offset).toNat < 0x1000 ∧ (0x00FFE : Offset).toNat % 4 ≠ 0) ∧
    (0x10000 ≤ (0x10002 : Offset).toNat ∧ (0x10002 : Offset).toNat % AccessSize.word.bytes ≠ 0) ∧
    (0x10000 ≤ (0x10000 : Offset).toNat ∧ onCurveState.inflight ≠ none) ∧
    ¬ (((0x10000 : Offset).toNat < 0x1000 ∧ (AccessSize.word.bytes ≠ 4 ∨ (0x10000 : Offset).toNat % 4 ≠ 0)) ∨
      (0x10000 ≤ (0x10000 : Offset).toNat ∧
        ((0x10000 : Offset).toNat % AccessSize.word.bytes ≠ 0 ∨ State.reset.inflight ≠ none))) := by
  decide

/-- I2OSP of the value 256 in one byte, which ends with an error, and in two bytes, which succeeds. -/
def narrowState : State := running (record .i2osp [0, 2, 1, 0x100]) (memory [(0, [0x01, 0x00])])

/-- I2OSP of the value 256 in two bytes. -/
def wideState : State := running (record .i2osp [0, 2, 2, 0x100]) (memory [(0, [0x01, 0x00])])

theorem witness_ErrorsArePrecise :
    exec .i2osp narrowState = .next (nextOf (exec .i2osp narrowState) narrowState) ∧
    (nextOf (exec .i2osp narrowState) narrowState).status.err = true :=
  ⟨exec_nextOf _ _ _ _, by decide +kernel⟩

theorem witness_StoringFrame :
    wideState.inflight = some (record .i2osp [0, 2, 2, 0x100]) ∧
    destination .i2osp (record .i2osp [0, 2, 2, 0x100]).args = some 0x100 ∧
    exec .i2osp wideState = .next (nextOf (exec .i2osp wideState) wideState) :=
  ⟨rfl, rfl, exec_nextOf _ _ _ _⟩

theorem witness_VerifyFrame :
    onCurveState.inflight = some onCurveRecord ∧ destination .ecOnCurve onCurveRecord.args = none ∧
    exec .ecOnCurve onCurveState = .next (nextOf (exec .ecOnCurve onCurveState) onCurveState) :=
  ⟨rfl, rfl, exec_nextOf _ _ _ _⟩

theorem witness_InputsAreKept :
    wideState.inflight = some (record .i2osp [0, 2, 2, 0x100]) ∧
    exec .i2osp wideState = .next (nextOf (exec .i2osp wideState) wideState) ∧
    ((0, 2) : Word × Nat) ∈ inputs .i2osp (record .i2osp [0, 2, 2, 0x100]).args false :=
  ⟨rfl, exec_nextOf _ _ _ _, by decide⟩

theorem witness_ResultLenIsOutLen :
    wideState.inflight = some (record .i2osp [0, 2, 2, 0x100]) ∧
    exec .i2osp wideState = .next (nextOf (exec .i2osp wideState) wideState) ∧
    outLen .i2osp (record .i2osp [0, 2, 2, 0x100]).args = some 2 ∧
    (nextOf (exec .i2osp wideState) wideState).status.err = false ∧
    (nextOf (exec .i2osp narrowState) narrowState).status.err = true :=
  ⟨rfl, exec_nextOf _ _ _ _, rfl, by decide +kernel, by decide +kernel⟩

/-- EC_ON_CURVE on G. -/
def onCurveG : State := running onCurveRecord (memory [(0, (0x04 :: (i2osp curveGx 32 ++ i2osp curveGy 32)))])

theorem witness_ValidOnlyFromVerify :
    exec .ecOnCurve onCurveG = .next (nextOf (exec .ecOnCurve onCurveG) onCurveG) ∧
    (nextOf (exec .ecOnCurve onCurveG) onCurveG).status.valid = true :=
  ⟨exec_nextOf _ _ _ _, by decide +kernel⟩

/-- Another DMEM that agrees on the input region. -/
theorem witness_ReadsOnlyItsInputs :
    wideState.inflight = some (record .i2osp [0, 2, 2, 0x100]) ∧
    (∀ r ∈ inputs .i2osp (record .i2osp [0, 2, 2, 0x100]).args false,
      (memory [(0, [0x01, 0x00, 0x07])]).read r.1.toNat r.2 = wideState.dmem.read r.1.toNat r.2) ∧
    exec .i2osp wideState = .next (nextOf (exec .i2osp wideState) wideState) :=
  ⟨rfl, by decide, exec_nextOf _ _ _ _⟩

/-- A record that differs in an ARG that I2OSP does not name, in X and in the word. -/
theorem witness_OperandsTakenAtIssue :
    wideState.inflight = some (record .i2osp [0, 2, 2, 0x100]) ∧ mayDraw .i2osp = false ∧
    (∀ j ∈ namedArgs .i2osp false,
      (record .i2osp [0, 2, 2, 0x100, 9, 9, 9, 9] true).args.get j = (record .i2osp [0, 2, 2, 0x100]).args.get j) ∧
    exec .i2osp wideState = .next (nextOf (exec .i2osp wideState) wideState) :=
  ⟨rfl, rfl, by decide, exec_nextOf _ _ _ _⟩

theorem witness_WhatDraws :
    wideState.inflight = some (record .i2osp [0, 2, 2, 0x100]) ∧ mayDraw .i2osp = false ∧
    exec .i2osp wideState = .next (nextOf (exec .i2osp wideState) wideState) ∧ Instr.i2osp ≠ .es256Sign :=
  ⟨rfl, rfl, exec_nextOf _ _ _ _, by decide⟩

/-- Bit lengths on either side of the limits; a region one byte past DMEM_BYTES; an output one byte into an input. -/
theorem witness_OperandChecks :
    (takesRsaKey .rsasp1 = true ∧ ¬ KeyLengthOk (record .rsasp1 [0]).args ∧ ¬ KeyLengthOk (record .rsasp1 [12]).args ∧
      ¬ KeyLengthOk (record .rsasp1 [4104]).args ∧ KeyLengthOk (record .rsasp1 [8]).args ∧
      KeyLengthOk (record .rsasp1 [4096]).args) ∧
    ¬ RegionsInside (.sha256 false) (record (.sha256 false) [0xFFFD, 4, 0x100]).args false ∧
    ¬ RegionsInside .rsasp1 (record .rsasp1 [16, 0, 2, 4, 0xFFFF]).args false ∧
    RegionsInside (.sha256 false) (record (.sha256 false) [0x100, 8, 0x107]).args false ∧
    ¬ OutputApart (.sha256 false) (record (.sha256 false) [0x100, 8, 0x107]).args false ∧
    OutputApart (.sha256 false) (record (.sha256 false) [0x100, 8, 0x108]).args false := by
  simp only [← regionsInside_iff, ← outputApart_iff]
  decide

theorem witness_BigEndianConversions : 255 < 256 ^ 1 ∧ ([0xFF] : Bytes).length = 1 ∧ os2ip [0xFF] = 255 := by decide

theorem witness_Sha256Result :
    (running (record (.sha256 true) [0xFFFD, 3, 0xFF00]) (memory [])).inflight =
      some (record (.sha256 true) [0xFFFD, 3, 0xFF00]) ∧
    ChecksPass (.sha256 true) (record (.sha256 true) [0xFFFD, 3, 0xFF00]).args false ∧
    ChecksPass (.sha256 false) (record (.sha256 false) [0xFFFD, 3, 0xFFDD]).args false :=
  ⟨rfl, checks (by decide), checks (by decide)⟩

theorem witness_HmacResults :
    (running (record .hmacSha256 [0, 64, 0, 65, 0xFFE0]) (memory [])).inflight =
      some (record .hmacSha256 [0, 64, 0, 65, 0xFFE0]) ∧
    ChecksPass .hmacSha256 (record .hmacSha256 [0, 64, 0, 65, 0xFFE0]).args false ∧
    (running (record .hmacVerify [0, 0, 0, 0, 0xFFE0, 32]) (memory [])).inflight =
      some (record .hmacVerify [0, 0, 0, 0, 0xFFE0, 32]) ∧
    ChecksPass .hmacVerify (record .hmacVerify [0, 0, 0, 0, 0xFFE0, 32]).args false :=
  ⟨rfl, checks (by decide), rfl, checks (by decide)⟩

theorem witness_B64uEncodeResult :
    (running (record (.b64uEncode true) [0, 4, 0xFFF8]) (memory [])).inflight =
      some (record (.b64uEncode true) [0, 4, 0xFFF8]) ∧
    ChecksPass (.b64uEncode true) (record (.b64uEncode true) [0, 4, 0xFFF8]).args false ∧
    ChecksPass (.b64uEncode false) (record (.b64uEncode false) [0, 3, 3]).args false :=
  ⟨rfl, checks (by decide), checks (by decide)⟩

/-- Check 1: `=` inside the body.  -/
theorem witness_B64uDecodeResult_badPad :
    (running (record .b64uDecode [0, 3, 0x100]) (memory [(0, [0x5a, 0x3d, 0x67])])).inflight =
      some (record .b64uDecode [0, 3, 0x100]) ∧ Inside 0 3 ∧
    (memory [(0, [0x5a, 0x3d, 0x67])]).read 0 3 = ([0x5a, 0x3d, 0x67] : Bytes) ++ List.replicate 0 0x3D ∧ ([0x5a, 0x3d, 0x67] : Bytes).getLast? ≠ some 0x3D ∧
    (∀ v ∈ [25], v < 64) ∧ ([0x5a, 0x3d, 0x67] : Bytes) = charsOf [25] ++ 0x3D :: [0x67] ∧ (0x3D : Byte) ∉ alphabet := by
  decide

/-- Check 1: a byte outside the alphabet, before trailing `=`. -/
theorem witness_B64uDecodeResult_badChar :
    (running (record .b64uDecode [0, 4, 0x100]) (memory [(0, [0x2b, 0x2f, 0x38, 0x3d])])).inflight =
      some (record .b64uDecode [0, 4, 0x100]) ∧ Inside 0 4 ∧
    (memory [(0, [0x2b, 0x2f, 0x38, 0x3d])]).read 0 4 = ([0x2b, 0x2f, 0x38] : Bytes) ++ List.replicate 1 0x3D ∧ ([0x2b, 0x2f, 0x38] : Bytes).getLast? ≠ some 0x3D ∧
    (∀ v ∈ ([] : List Nat), v < 64) ∧ ([0x2b, 0x2f, 0x38] : Bytes) = charsOf [] ++ 0x2B :: [0x2F, 0x38] ∧ (0x2B : Byte) ∉ alphabet := by
  decide

/-- Check 2: three trailing `=`. -/
theorem witness_B64uDecodeResult_threePads :
    (running (record .b64uDecode [0, 5, 0x100]) (memory [(0, [0x5a, 0x67, 0x3d, 0x3d, 0x3d])])).inflight =
      some (record .b64uDecode [0, 5, 0x100]) ∧ Inside 0 5 ∧
    (memory [(0, [0x5a, 0x67, 0x3d, 0x3d, 0x3d])]).read 0 5 = charsOf [25, 32] ++ List.replicate 3 0x3D ∧ (charsOf [25, 32]).getLast? ≠ some 0x3D ∧
    (∀ v ∈ [25, 32], v < 64) ∧ 2 < 3 := by
  decide

/-- Check 3: a negative output length. -/
theorem witness_B64uDecodeResult_negative :
    (running (record .b64uDecode [0, 2, 0x100]) (memory [(0, [0x3d, 0x3d])])).inflight =
      some (record .b64uDecode [0, 2, 0x100]) ∧ Inside 0 2 ∧
    (memory [(0, [0x3d, 0x3d])]).read 0 2 = charsOf [] ++ List.replicate 2 0x3D ∧ (charsOf []).getLast? ≠ some 0x3D ∧
    2 ≤ 2 ∧ 6 * 2 / 8 < 2 := by
  decide

/-- The output region: one byte that does not fit. -/
theorem witness_B64uDecodeResult_outputOutside :
    (running (record .b64uDecode [0, 4, 0x10000]) (memory [(0, [0x5a, 0x67, 0x3d, 0x3d])])).inflight =
      some (record .b64uDecode [0, 4, 0x10000]) ∧ Inside 0 4 ∧
    (memory [(0, [0x5a, 0x67, 0x3d, 0x3d])]).read 0 4 = charsOf [25, 32] ++ List.replicate 2 0x3D ∧ (charsOf [25, 32]).getLast? ≠ some 0x3D ∧
    (∀ v ∈ [25, 32], v < 64) ∧ 2 ≤ 6 * 4 / 8 ∧ 6 * 4 / 8 - 2 = 1 ∧ ¬ Inside 0x10000 1 := by
  decide

/-- The output region: it begins at the last byte of the text. -/
theorem witness_B64uDecodeResult_outputOverlaps :
    (running (record .b64uDecode [0, 4, 3]) (memory [(0, [0x5a, 0x67, 0x3d, 0x3d])])).inflight =
      some (record .b64uDecode [0, 4, 3]) ∧ Inside 0 4 ∧
    (memory [(0, [0x5a, 0x67, 0x3d, 0x3d])]).read 0 4 = charsOf [25, 32] ++ List.replicate 2 0x3D ∧ (charsOf [25, 32]).getLast? ≠ some 0x3D ∧
    Inside 3 1 ∧ Overlaps 3 1 0 4 := by
  decide

/-- The output region begins right after the text. -/
theorem witness_B64uDecodeResult_succeeds :
    (running (record .b64uDecode [0, 4, 4]) (memory [(0, [0x5a, 0x67, 0x3d, 0x3d])])).inflight =
      some (record .b64uDecode [0, 4, 4]) ∧ Inside 0 4 ∧
    (memory [(0, [0x5a, 0x67, 0x3d, 0x3d])]).read 0 4 = charsOf [25, 32] ++ List.replicate 2 0x3D ∧ (charsOf [25, 32]).getLast? ≠ some 0x3D ∧
    Inside 4 1 ∧ ¬ Overlaps 4 1 0 4 := by
  decide

theorem witness_EmsaPkcs1Result :
    (running (record .emsaPkcs1Encode [0, 62, 32]) (memory [])).inflight = some (record .emsaPkcs1Encode [0, 62, 32]) ∧
    ChecksPass .emsaPkcs1Encode (record .emsaPkcs1Encode [0, 62, 32]).args false ∧
    ChecksPass .emsaPkcs1Encode (record .emsaPkcs1Encode [0, 61, 32]).args false ∧ (61 : Word).toNat < 62 ∧
    62 ≤ (62 : Word).toNat :=
  ⟨rfl, checks (by decide), checks (by decide), by decide, by decide⟩

theorem witness_Mgf1Result :
    (running (record .mgf1 [0, 3, 33, 3]) (memory [])).inflight = some (record .mgf1 [0, 3, 33, 3]) ∧
    ChecksPass .mgf1 (record .mgf1 [0, 3, 33, 3]).args false :=
  ⟨rfl, checks (by decide)⟩

/-- emLen one byte below and at the limit, with and without a salt operand (X). -/
theorem witness_EmsaPssEncodeResult :
    (running (record .emsaPssEncode [0, 3, 0, 265, 0x100, 0x80] true) (memory [])).inflight =
      some (record .emsaPssEncode [0, 3, 0, 265, 0x100, 0x80] true) ∧
    ChecksPass .emsaPssEncode (record .emsaPssEncode [0, 3, 0, 265, 0x100, 0x80] true).args true ∧
    ChecksPass .emsaPssEncode (record .emsaPssEncode [0, 3, 0, 265, 0x100, 0x100] false).args false ∧
    ChecksPass .emsaPssEncode (record .emsaPssEncode [0, 3, 0, 264, 0x100, 0x80] true).args true ∧
    (264 + 7) / 8 < 34 + 0 ∧ 34 + 0 ≤ (265 + 7) / 8 :=
  ⟨rfl, checks (by decide), checks (by decide), checks (by decide), by decide, by decide⟩

theorem witness_EmsaPssVerifyResult :
    (running (record .emsaPssVerify [0, 3, 0, 265, 0x100, 34]) (memory [])).inflight =
      some (record .emsaPssVerify [0, 3, 0, 265, 0x100, 34]) ∧
    ChecksPass .emsaPssVerify (record .emsaPssVerify [0, 3, 0, 265, 0x100, 34]).args false :=
  ⟨rfl, checks (by decide)⟩

/-- The value 256 in one byte, and the value 255. -/
theorem witness_I2ospResult :
    narrowState.inflight = some (record .i2osp [0, 2, 1, 0x100]) ∧
    ChecksPass .i2osp (record .i2osp [0, 2, 1, 0x100]).args false ∧ 256 ^ 1 ≤ intAt narrowState 0 2 ∧
    intAt (running (record .i2osp [0, 2, 1, 0x100]) (memory [(0, [0x00, 0xFF])])) 0 2 < 256 ^ 1 :=
  ⟨rfl, checks (by decide), by decide, by decide⟩

/-- The regions of an RSA primitive of one byte on the bytes n, exponent and representative. -/
def primitiveState (i : Instr) (n m : Byte) : State := running (record i [8, 0, 1, 2, 3]) (memory [(0, [n, 0x03, m])])

theorem witness_ModularExponentiation : 1 ≤ 1 := Nat.le_refl 1

theorem witness_ModularInverse : 2 ≤ 2 := Nat.le_refl 2

/-- n = 0; m = n; m = n − 1. -/
theorem witness_RsaPrimitiveResults :
    (primitiveState .rsasp1 5 4).inflight = some (record .rsasp1 [8, 0, 1, 2, 3]) ∧
    ChecksPass .rsasp1 (record .rsasp1 [8, 0, 1, 2, 3]).args false ∧
    ChecksPass .rsavp1 (record .rsavp1 [8, 0, 1, 2, 3]).args false ∧
    intAt (primitiveState .rsasp1 0 4) 0 1 = 0 ∧
    (intAt (primitiveState .rsasp1 5 5) 0 1 ≠ 0 ∧
      intAt (primitiveState .rsasp1 5 5) 0 1 ≤ intAt (primitiveState .rsasp1 5 5) 2 1) ∧
    intAt (primitiveState .rsasp1 5 4) 2 1 < intAt (primitiveState .rsasp1 5 4) 0 1 :=
  ⟨rfl, checks (by decide), checks (by decide), by decide, by decide, by decide⟩

/-- The big-endian string of `len` bytes that ends with these bytes. -/
def padded (len : Nat) (tail : Bytes) : Bytes := List.replicate (len - tail.length) 0x00 ++ tail

/-- An RS256 command of `kLen` bytes: n at 0, the exponent 1 at 0x100, "abc" at 0x200, the signature at 0x300. -/
def rs256Record (i : Instr) (bits : Word) (sigLen : Word) : InFlight :=
  record i [bits, 0, 0x100, 0x200, 3, 0x300, sigLen]

/-- DMEM with that modulus, and with the exponent 1, "abc", a signature and the salt 00 01 .. 1f at 0x400. -/
def rsaMemory (n sig : Bytes) : Memory :=
  memory [(0, n), (0x100, padded n.length [1]), (0x200, [0x61, 0x62, 0x63]), (0x300, sig),
    (0x400, (List.range 32).map (BitVec.ofNat 8))]

theorem rsaMemory_reads (n sig : Bytes) (h : n.length ≤ 256 ∧ sig.length ≤ 256) (h0 : n ≠ []) (len : Nat)
    (hl : n.length = len) :
    (rsaMemory n sig).read 0 len = n ∧ (rsaMemory n sig).read 0x100 len = padded len [1] ∧
    (rsaMemory n sig).read 0x200 3 = [0x61, 0x62, 0x63] ∧
    (rsaMemory n sig).read 0x300 sig.length = sig ∧
    (rsaMemory n sig).read 0x400 32 = (List.range 32).map (BitVec.ofNat 8) := by
  have hp : (padded n.length [1]).length = n.length := by
    have := List.length_pos_of_ne_nil h0
    simp [padded]
    omega
  subst hl
  unfold rsaMemory
  refine ⟨memory_read_first _ _ _ _ rfl, ?_, ?_, ?_, ?_⟩
  · rw [memory_read_rest _ _ _ _ _ (by omega), memory_read_first _ _ _ _ hp]
  · rw [memory_read_rest _ _ _ _ _ (by omega), memory_read_rest _ _ _ _ _ (by omega),
      memory_read_first _ 3 _ _ rfl]
  · rw [memory_read_rest _ _ _ _ _ (by omega), memory_read_rest _ _ _ _ _ (by omega),
      memory_read_rest _ _ _ _ _ (by decide), memory_read_first _ _ _ _ rfl]
  · rw [memory_read_rest _ _ _ _ _ (by omega), memory_read_rest _ _ _ _ _ (by omega),
      memory_read_rest _ _ _ _ _ (by decide), memory_read_rest _ _ _ _ _ (by omega), memory_read_first _ 32 _ _ (by decide)]

/-- The EMSA-PKCS1-v1_5 encoding of "abc" in 62 bytes (`95_test_vectors.md` V30). -/
def abcEncoding : Bytes := pkcs1Text (sha256 [0x61, 0x62, 0x63]) 62

theorem abcEncoding_length : abcEncoding.length = 62 := by decide +kernel

/-- n = 0; kLen = 61; n equal to the encoding; n above it. -/
theorem witness_Rs256SignResult :
    (running (rs256Record .rs256Sign 496 0) (rsaMemory (List.replicate 62 0xFF) [])).inflight =
      some (rs256Record .rs256Sign 496 0) ∧
    ChecksPass .rs256Sign (rs256Record .rs256Sign 496 0).args false ∧
    os2ip ((rsaMemory (List.replicate 62 0x00) []).read 0 62) = 0 ∧
    (ChecksPass .rs256Sign (rs256Record .rs256Sign 488 0).args false ∧
      os2ip ((rsaMemory (padded 61 [1]) []).read 0 61) ≠ 0 ∧ kLen (rs256Record .rs256Sign 488 0).args < 62) ∧
    62 ≤ kLen (rs256Record .rs256Sign 496 0).args ∧
    os2ip ((rsaMemory abcEncoding []).read 0 62) ≤
      os2ip (pkcs1Text (sha256 ((rsaMemory abcEncoding []).read 0x200 3)) 62) ∧
    os2ip (pkcs1Text (sha256 ((rsaMemory (List.replicate 62 0xFF) []).read 0x200 3)) 62) <
      os2ip ((rsaMemory (List.replicate 62 0xFF) []).read 0 62) := by
  have z := rsaMemory_reads (List.replicate 62 0x00) [] (by decide) (by decide) 62 rfl
  have p := rsaMemory_reads (padded 61 [1]) [] (by decide) (by decide) 61 rfl
  have e := rsaMemory_reads abcEncoding [] ⟨by rw [abcEncoding_length]; decide, by decide⟩
    (List.ne_nil_of_length_eq_add_one abcEncoding_length) 62 abcEncoding_length
  have f := rsaMemory_reads (List.replicate 62 0xFF) [] (by decide) (by decide) 62 rfl
  rw [z.1, p.1, e.1, e.2.2.1, f.1, f.2.2.1]
  exact ⟨rfl, checks (by decide), by decide, ⟨checks (by decide), by decide, by decide⟩, by decide, Nat.le_refl _,
    by decide +kernel⟩

/-- n = 0; signatures of kLen − 1 and kLen + 1 bytes; kLen = 61; sig = n; sig = n − 1. -/
theorem witness_Rs256VerifyResult :
    (running (rs256Record .rs256Verify 496 62) (rsaMemory (padded 62 [7]) (padded 62 [6]))).inflight =
      some (rs256Record .rs256Verify 496 62) ∧
    ChecksPass .rs256Verify (rs256Record .rs256Verify 496 62).args false ∧
    os2ip ((rsaMemory (List.replicate 62 0x00) []).read 0 62) = 0 ∧
    (ChecksPass .rs256Verify (rs256Record .rs256Verify 496 61).args false ∧ (61 : Word).toNat ≠ 496 / 8) ∧
    (ChecksPass .rs256Verify (rs256Record .rs256Verify 496 63).args false ∧ (63 : Word).toNat ≠ 496 / 8) ∧
    (ChecksPass .rs256Verify (rs256Record .rs256Verify 488 61).args false ∧ (61 : Word).toNat = 488 / 8 ∧
      kLen (rs256Record .rs256Verify 488 61).args < 62 ∧ os2ip ((rsaMemory (padded 61 [1]) []).read 0 61) ≠ 0) ∧
    (os2ip ((rsaMemory (padded 62 [7]) (padded 62 [7])).read 0 62) ≠ 0 ∧
      os2ip ((rsaMemory (padded 62 [7]) (padded 62 [7])).read 0 62) ≤
        os2ip ((rsaMemory (padded 62 [7]) (padded 62 [7])).read 0x300 62)) ∧
    os2ip ((rsaMemory (padded 62 [7]) (padded 62 [6])).read 0x300 62) <
      os2ip ((rsaMemory (padded 62 [7]) (padded 62 [6])).read 0 62) := by
  have z := rsaMemory_reads (List.replicate 62 0x00) [] (by decide) (by decide) 62 rfl
  have p := rsaMemory_reads (padded 61 [1]) [] (by decide) (by decide) 61 rfl
  have e := rsaMemory_reads (padded 62 [7]) (padded 62 [7]) (by decide) (by decide) 62 rfl
  have f := rsaMemory_reads (padded 62 [7]) (padded 62 [6]) (by decide) (by decide) 62 rfl
  have e4 : (rsaMemory (padded 62 [7]) (padded 62 [7])).read 0x300 62 = padded 62 [7] := e.2.2.2.1
  have f4 : (rsaMemory (padded 62 [7]) (padded 62 [6])).read 0x300 62 = padded 62 [6] := f.2.2.2.1
  rw [z.1, p.1, e.1, e4, f.1, f4]
  exact ⟨rfl, checks (by decide), by decide, ⟨checks (by decide), by decide⟩, ⟨checks (by decide), by decide⟩,
    ⟨checks (by decide), by decide, by decide, by decide⟩, ⟨by decide, by decide⟩, by decide⟩

/-- A PS256 command of `kLen` bytes on that layout; the last ARG is the salt's address or the signature's length. -/
def ps256Record (i : Instr) (bits a6 : Word) (x : Bool) : InFlight := record i [bits, 0, 0x100, 0x200, 3, 0x300, a6] x

/-- EncPSS("abc", 32, 527, 00 01 .. 1f) is neither 0 nor above the range of 527 bits. -/
theorem abcPss : 1 ≤ os2ip (pssText [0x61, 0x62, 0x63] ((List.range 32).map (BitVec.ofNat 8)) 527) ∧
    os2ip (pssText [0x61, 0x62, 0x63] ((List.range 32).map (BitVec.ofNat 8)) 527) < 2 ^ 527 := by
  decide +kernel

/-- n = 0; kLen = 65; n far below the encoding; n above every encoding; and the checks with X = 0. -/
theorem witness_Ps256SignResult :
    (running (ps256Record .ps256Sign 528 0x400 true) (rsaMemory (padded 66 [1]) [])).inflight =
      some (ps256Record .ps256Sign 528 0x400 true) ∧
    ChecksPass .ps256Sign (ps256Record .ps256Sign 528 0x400 true).args true ∧
    ChecksPass .ps256Sign (ps256Record .ps256Sign 528 0x300 false).args false ∧
    os2ip ((rsaMemory (List.replicate 66 0x00) []).read 0 66) = 0 ∧
    (ChecksPass .ps256Sign (ps256Record .ps256Sign 520 0x400 true).args true ∧
      kLen (ps256Record .ps256Sign 520 0x400 true).args < 66 ∧ os2ip ((rsaMemory (padded 65 [1]) []).read 0 65) ≠ 0) ∧
    66 ≤ kLen (ps256Record .ps256Sign 528 0x400 true).args ∧
    (os2ip ((rsaMemory (padded 66 [1]) []).read 0 66) ≠ 0 ∧ os2ip ((rsaMemory (padded 66 [1]) []).read 0 66) ≤
      os2ip (pssText ((rsaMemory (padded 66 [1]) []).read 0x200 3) ((rsaMemory (padded 66 [1]) []).read 0x400 32) 527)) ∧
    os2ip (pssText ((rsaMemory (0x80 :: List.replicate 65 0x00) []).read 0x200 3)
      ((rsaMemory (0x80 :: List.replicate 65 0x00) []).read 0x400 32) 527) <
      os2ip ((rsaMemory (0x80 :: List.replicate 65 0x00) []).read 0 66) := by
  have z := rsaMemory_reads (List.replicate 66 0x00) [] (by decide) (by decide) 66 rfl
  have p := rsaMemory_reads (padded 65 [1]) [] (by decide) (by decide) 65 rfl
  have e := rsaMemory_reads (padded 66 [1]) [] (by decide) (by decide) 66 rfl
  have f := rsaMemory_reads (0x80 :: List.replicate 65 0x00) [] (by decide) (by decide) 66 rfl
  rw [z.1, p.1, e.1, e.2.2.1, e.2.2.2.2, f.1, f.2.2.1, f.2.2.2.2, show os2ip (padded 66 [1]) = 1 by decide,
    show os2ip (0x80 :: List.replicate 65 0x00) = 2 ^ 527 by decide +kernel]
  exact ⟨rfl, checks (by decide), checks (by decide), by decide, ⟨checks (by decide), by decide, by decide⟩, by decide,
    ⟨by decide, abcPss.1⟩, abcPss.2⟩

/-- n = 0; signatures of kLen − 1 and kLen + 1 bytes; sig = n; sig = n − 1. -/
theorem witness_Ps256VerifyResult :
    (running (ps256Record .ps256Verify 528 66 false) (rsaMemory (padded 66 [7]) (padded 66 [6]))).inflight =
      some (ps256Record .ps256Verify 528 66 false) ∧
    ChecksPass .ps256Verify (ps256Record .ps256Verify 528 66 false).args false ∧
    os2ip ((rsaMemory (List.replicate 66 0x00) []).read 0 66) = 0 ∧
    (ChecksPass .ps256Verify (ps256Record .ps256Verify 528 65 false).args false ∧ (65 : Word).toNat ≠ 528 / 8) ∧
    (ChecksPass .ps256Verify (ps256Record .ps256Verify 528 67 false).args false ∧ (67 : Word).toNat ≠ 528 / 8) ∧
    (os2ip ((rsaMemory (padded 66 [7]) (padded 66 [7])).read 0 66) ≠ 0 ∧
      os2ip ((rsaMemory (padded 66 [7]) (padded 66 [7])).read 0 66) ≤
        os2ip ((rsaMemory (padded 66 [7]) (padded 66 [7])).read 0x300 66)) ∧
    os2ip ((rsaMemory (padded 66 [7]) (padded 66 [6])).read 0x300 66) <
      os2ip ((rsaMemory (padded 66 [7]) (padded 66 [6])).read 0 66) := by
  have z := rsaMemory_reads (List.replicate 66 0x00) [] (by decide) (by decide) 66 rfl
  have e := rsaMemory_reads (padded 66 [7]) (padded 66 [7]) (by decide) (by decide) 66 rfl
  have f := rsaMemory_reads (padded 66 [7]) (padded 66 [6]) (by decide) (by decide) 66 rfl
  have e4 : (rsaMemory (padded 66 [7]) (padded 66 [7])).read 0x300 66 = padded 66 [7] := e.2.2.2.1
  have f4 : (rsaMemory (padded 66 [7]) (padded 66 [6])).read 0x300 66 = padded 66 [6] := f.2.2.2.1
  rw [z.1, e.1, e4, f.1, f4]
  exact ⟨rfl, checks (by decide), by decide, ⟨checks (by decide), by decide⟩, ⟨checks (by decide), by decide⟩,
    ⟨by decide, by decide⟩, by decide⟩

/-- With exponent 1 every x below n satisfies x^(1·1) mod n = x. -/
theorem exponent_one {n d e : Nat} (hd : d = 1) (he : e = 1) (x : Nat) (hx : x < n) : x ^ (d * e) % n = x := by
  subst hd he
  simpa using Nat.mod_eq_of_lt hx

/-- RS256 with n = 2^496 − 1 and d = e = 1. -/
def rsSigning : State := running (rs256Record .rs256Sign 496 0) (rsaMemory (List.replicate 62 0xFF) [])

/-- The state RS256_SIGN leaves. -/
def rsSigned : State := nextOf (exec .rs256Sign rsSigning) rsSigning

theorem witness_Rs256VerifiesItsOwn :
    rsSigning.inflight = some (rs256Record .rs256Sign 496 0) ∧ exec .rs256Sign rsSigning = .next rsSigned ∧
    rsSigned.status.err = false ∧
    ({ rsSigned with inflight := some (rs256Record .rs256Verify 496 62) } : State).inflight =
      some (rs256Record .rs256Verify 496 62) ∧
    RegionsInside .rs256Verify (rs256Record .rs256Verify 496 62).args false ∧
    (62 : Word).toNat = kLen (rs256Record .rs256Sign 496 0).args ∧
    ∀ x, x < intAt rsSigning 0 62 → x ^ (intAt rsSigning 0x100 62 * intAt rsSigned 0x100 62) % intAt rsSigning 0 62 = x :=
  ⟨rfl, exec_nextOf _ _ _ _, by decide +kernel, rfl, (regionsInside_iff _ _ _).1 (by decide), by decide,
    exponent_one (by decide +kernel) (by decide +kernel)⟩

/-- PS256 with n = 2^528 − 1, d = e = 1 and an external salt. -/
def psSigning : State := running (ps256Record .ps256Sign 528 0x400 true) (rsaMemory (List.replicate 66 0xFF) [])

/-- The state PS256_SIGN leaves. -/
def psSigned : State := nextOf (exec .ps256Sign psSigning) psSigning

theorem witness_Ps256VerifiesItsOwn :
    psSigning.inflight = some (ps256Record .ps256Sign 528 0x400 true) ∧ exec .ps256Sign psSigning = .next psSigned ∧
    psSigned.status.err = false ∧
    ({ psSigned with inflight := some (ps256Record .ps256Verify 528 66 false) } : State).inflight =
      some (ps256Record .ps256Verify 528 66 false) ∧
    RegionsInside .ps256Verify (ps256Record .ps256Verify 528 66 false).args false ∧
    (66 : Word).toNat = kLen (ps256Record .ps256Sign 528 0x400 true).args ∧
    ∀ x, x < intAt psSigning 0 66 → x ^ (intAt psSigning 0x100 66 * intAt psSigned 0x100 66) % intAt psSigning 0 66 = x :=
  ⟨rfl, exec_nextOf _ _ _ _, by decide +kernel, rfl, (regionsInside_iff _ _ _).1 (by decide), by decide,
    exponent_one (by decide +kernel) (by decide +kernel)⟩

/-- A 65-byte operand. -/
def operand (tag : Byte) (x y : Nat) : Bytes := tag :: (i2osp x 32 ++ i2osp y 32)

theorem operand_length (tag : Byte) (x y : Nat) : (operand tag x y).length = 65 := by simp [operand]

/-- DMEM with two operands, at 0 and at 65. -/
def points (p q : Bytes) : Memory := memory [(0, p), (65, q)]

/-- A tag that is no point's. -/
theorem badTag_spells_nothing (p : Point) : ¬ Spells (operand 0x02 1 1) p := by
  cases p with
  | identity => rw [spells_identity_iff (operand_length _ _ _)]; decide
  | affine x y => rw [spells_affine_iff (operand_length _ _ _)]; exact fun h => absurd h.1 (by decide)

/-- A coordinate equal to q. -/
theorem coordinate_q_spells_nothing (p : Point) : ¬ Spells (operand 0x04 curveQ 1) p := by
  cases p with
  | identity => rw [spells_identity_iff (operand_length _ _ _)]; decide
  | affine x y =>
    rw [spells_affine_iff (operand_length _ _ _)]
    rintro ⟨-, rfl, -, hx, -⟩
    revert hx
    decide +kernel

theorem spells_of_bytes {x y : Nat}
    (h : ((operand 0x04 x y).drop 1).take 32 = i2osp x 32 ∧ os2ip (i2osp x 32) = x ∧
      os2ip ((operand 0x04 x y).drop 33) = y ∧ x < curveQ ∧ y < curveQ) : Spells (operand 0x04 x y) (.affine x y) := by
  rw [spells_affine_iff (operand_length _ _ _), h.1]
  exact ⟨rfl, h.2.1.symm, h.2.2.1.symm, h.2.2.2⟩

theorem spells_G : Spells (operand 0x04 curveGx curveGy) curveG := spells_of_bytes (by decide +kernel)

theorem spells_5_0 : Spells (operand 0x04 5 0) (.affine 5 0) := spells_of_bytes (by decide +kernel)

theorem spells_1_2 : Spells (operand 0x04 1 2) (.affine 1 2) := spells_of_bytes (by decide +kernel)

theorem spells_1_3 : Spells (operand 0x04 1 3) (.affine 1 3) := spells_of_bytes (by decide +kernel)

theorem spells_identity : Spells (operand 0x00 5 5) .identity := (spells_identity_iff (operand_length _ _ _)).2 rfl

/-- The operands at 0 and 65 read back. -/
theorem points_read :
    (points (operand 0x02 1 1) []).read 0 65 = operand 0x02 1 1 ∧
    (points (operand 0x04 curveQ 1) []).read 0 65 = operand 0x04 curveQ 1 ∧
    (points (operand 0x00 5 5) []).read 0 65 = operand 0x00 5 5 ∧
    (points (operand 0x04 5 0) (i2osp 2 32)).read 0 65 = operand 0x04 5 0 ∧
    (points (operand 0x04 1 2) (operand 0x04 1 3)).read 0 65 = operand 0x04 1 2 ∧
    (points (operand 0x04 1 2) (operand 0x04 1 3)).read 65 65 = operand 0x04 1 3 ∧
    (points (operand 0x04 curveGx curveGy) (i2osp 1 32)).read 0 65 = operand 0x04 curveGx curveGy := by
  decide +kernel

/-- No point; a coordinate q; y = 0; Identity; G. -/
theorem witness_EcDoubleResult :
    (running (record .ecDouble [0, 65]) (points (operand 0x02 1 1) [])).inflight = some (record .ecDouble [0, 65]) ∧
    ChecksPass .ecDouble (record .ecDouble [0, 65]).args false ∧
    (∀ p, ¬ Spells ((points (operand 0x02 1 1) []).read 0 65) p) ∧
    (∀ p, ¬ Spells ((points (operand 0x04 curveQ 1) []).read 0 65) p) ∧
    Spells ((points (operand 0x04 5 0) (i2osp 2 32)).read 0 65) (.affine 5 0) ∧
    (Spells ((points (operand 0x00 5 5) []).read 0 65) .identity ∧ ∀ x, Point.identity ≠ .affine x 0) ∧
    (Spells ((points (operand 0x04 curveGx curveGy) (i2osp 1 32)).read 0 65) curveG ∧ ∀ x, curveG ≠ .affine x 0) := by
  obtain ⟨h1, h2, h3, h4, -, -, h7⟩ := points_read
  rw [h1, h2, h3, h4, h7]
  exact ⟨rfl, checks (by decide), badTag_spells_nothing, coordinate_q_spells_nothing, spells_5_0,
    ⟨spells_identity, fun x => nofun⟩, ⟨spells_G, fun x h => absurd (Point.affine.inj h).2 (by decide)⟩⟩

/-- No point; the uncovered case; a pair that it does not cover. -/
theorem witness_EcAddResult :
    (running (record .ecAdd [0, 65, 130]) (points (operand 0x02 1 1) [])).inflight = some (record .ecAdd [0, 65, 130]) ∧
    ChecksPass .ecAdd (record .ecAdd [0, 65, 130]).args false ∧
    (∀ p, ¬ Spells ((points (operand 0x02 1 1) []).read 0 65) p) ∧
    (Spells ((points (operand 0x04 1 2) (operand 0x04 1 3)).read 0 65) (.affine 1 2) ∧
      Spells ((points (operand 0x04 1 2) (operand 0x04 1 3)).read 65 65) (.affine 1 3) ∧
      Uncovered (.affine 1 2) (.affine 1 3)) ∧
    (ChecksPass .ecAdd (record .ecAdd [0, 0, 130]).args false ∧
      Spells ((points (operand 0x04 curveGx curveGy) (i2osp 1 32)).read 0 65) curveG ∧ ¬ Uncovered curveG curveG) := by
  obtain ⟨h1, -, -, -, h5, h6, h7⟩ := points_read
  rw [h1, h5, h6, h7]
  exact ⟨rfl, checks (by decide), badTag_spells_nothing, ⟨spells_1_2, spells_1_3, rfl, by decide, by decide +kernel⟩,
    checks (by decide), spells_G, fun h => h.2.1 rfl⟩

/-- No point; [1]G; [0]G; [2](5, 0), which has no result. -/
theorem witness_EcScalarMulResult :
    (running (record .ecScalarMul [0, 65, 130]) (points (operand 0x02 1 1) [])).inflight =
      some (record .ecScalarMul [0, 65, 130]) ∧
    ChecksPass .ecScalarMul (record .ecScalarMul [0, 65, 130]).args false ∧
    (∀ p, ¬ Spells ((points (operand 0x02 1 1) []).read 0 65) p) ∧
    (Spells ((points (operand 0x04 curveGx curveGy) (i2osp 1 32)).read 0 65) curveG ∧
      Multiple curveG (os2ip ((points (operand 0x04 curveGx curveGy) (i2osp 1 32)).read 65 32)) curveG) ∧
    Multiple curveG 0 .identity ∧
    (Spells ((points (operand 0x04 5 0) (i2osp 2 32)).read 0 65) (.affine 5 0) ∧
      ∀ r, ¬ Multiple (.affine 5 0) (os2ip ((points (operand 0x04 5 0) (i2osp 2 32)).read 65 32)) r) := by
  obtain ⟨h1, -, -, h4, -, -, h7⟩ := points_read
  rw [h1, h4, h7,
    show os2ip ((points (operand 0x04 curveGx curveGy) (i2osp 1 32)).read 65 32) = 1 by decide +kernel,
    show os2ip ((points (operand 0x04 5 0) (i2osp 2 32)).read 65 32) = 2 by decide +kernel]
  refine ⟨rfl, checks (by decide), badTag_spells_nothing, ⟨spells_G, .last rfl⟩, .none _ _, spells_5_0, fun r h => ?_⟩
  obtain ⟨a, ha⟩ := ladder_needs_double (Nat.le_refl 2) h
  cases a with
  | identity => exact ha
  | affine x y => exact ha.1 rfl

theorem witness_EcOnCurveResult :
    onCurveState.inflight = some onCurveRecord ∧ ChecksPass .ecOnCurve onCurveRecord.args false ∧
    (points (operand 0x02 1 1) []).byte 0 ≠ 0x00 ∧ (points (operand 0x02 1 1) []).byte 0 ≠ 0x04 ∧
    onCurveState.dmem.byte 0 = 0x00 ∧ onCurveG.dmem.byte 0 = 0x04 :=
  ⟨rfl, checks (by decide), by decide +kernel, by decide +kernel, by decide +kernel, by decide +kernel⟩

theorem witness_CurvePointsNeverFail :
    CurvePoint curveG ∧ CurvePoint .identity ∧ Instr.ecOnCurve ≠ .ecDouble ∧ Instr.ecOnCurve ≠ .ecAdd ∧
    Instr.ecOnCurve ≠ .ecScalarMul ∧
    exec .ecOnCurve onCurveState = .next (nextOf (exec .ecOnCurve onCurveState) onCurveState) :=
  ⟨⟨by decide, by decide, by decide +kernel⟩, trivial, nofun, nofun, nofun, exec_nextOf _ _ _ _⟩

/-- ES256_SIGN on the key at 0, "abc" at 32, the nonce at 0x40, the signature at 0x80. -/
def signRecord (x : Bool) : InFlight := record .es256Sign [0, 32, 3, 0x80, 0x40] x

/-- DMEM with this key and nonce. -/
def signMemory (d k : Nat) : Memory := memory [(0, i2osp d 32), (32, [0x61, 0x62, 0x63]), (0x40, i2osp k 32)]

/-- A state that signs. -/
def signState (d k : Nat) (x : Bool) : State := running (signRecord x) (signMemory d k)

/-- SHA256("abc") as an integer (`95_test_vectors.md` V1). -/
theorem abc_digestInt : digestInt [0x61, 0x62, 0x63] =
    0xba7816bf8f01cfea414140de5dae2223b00361a396177a9cb410ff61f20015ad := by
  decide +kernel

/-- d = 0 and d = n; k = 0 and k = n; d = n − 1; the nonce 1, which signs; and a drawn nonce, which is in range. -/
theorem witness_Es256SignResult :
    (signState 1 1 true).inflight = some (signRecord true) ∧ (signState 1 1 false).inflight = some (signRecord false) ∧
    ChecksPass .es256Sign (signRecord true).args true ∧ ChecksPass .es256Sign (signRecord false).args false ∧
    intAt (signState 0 1 true) 0 32 = 0 ∧ curveN ≤ intAt (signState curveN 1 true) 0 32 ∧
    (intAt (signState (curveN - 1) 0 true) 0 32 ≠ 0 ∧ intAt (signState (curveN - 1) 0 true) 0 32 < curveN ∧
      intAt (signState (curveN - 1) 0 true) 0x40 32 = 0) ∧
    curveN ≤ intAt (signState 1 curveN true) 0x40 32 ∧
    (rngScalar curveN 0 ≠ 0 ∧ rngScalar curveN 0 < curveN) ∧
    SignsWith (intAt (signState 1 1 true) 0 32) (digestInt (textAt (signState 1 1 true) 32 3))
      (intAt (signState 1 1 true) 0x40 32) curveGx
      0x258fe8b3702e123139fe27c3c15263166a1fe4771ceb0fb8b4f86de4ce35b2f2 := by
  refine ⟨rfl, rfl, checks (by decide), checks (by decide), by decide +kernel, by decide +kernel, by decide +kernel,
    by decide +kernel, ?_, ?_⟩
  · have := rngScalar_range curveN 0 (by decide)
    omega
  · rw [show textAt (signState 1 1 true) 32 3 = [0x61, 0x62, 0x63] by decide +kernel, abc_digestInt,
      show intAt (signState 1 1 true) 0 32 = 1 by decide +kernel,
      show intAt (signState 1 1 true) 0x40 32 = 1 by decide +kernel]
    exact ⟨curveGx, curveGy, .last rfl, by decide, by decide, by decide, by decide, by decide +kernel⟩

/-- Signatures of 63 and 65 bytes; a wrong tag; the tags 0x00 and 0x04. -/
theorem witness_Es256VerifyResult :
    (running (record .es256Verify [0, 0, 0, 65, 64]) (points (operand 0x02 1 1) [])).inflight =
      some (record .es256Verify [0, 0, 0, 65, 64]) ∧
    ChecksPass .es256Verify (record .es256Verify [0, 0, 0, 65, 64]).args false ∧
    (ChecksPass .es256Verify (record .es256Verify [0, 0, 0, 65, 63]).args false ∧ (63 : Word).toNat ≠ 64) ∧
    (ChecksPass .es256Verify (record .es256Verify [0, 0, 0, 65, 65]).args false ∧ (65 : Word).toNat ≠ 64) ∧
    (64 : Word).toNat = 64 ∧
    (points (operand 0x02 1 1) []).byte 0 ≠ 0x00 ∧ (points (operand 0x02 1 1) []).byte 0 ≠ 0x04 ∧
    onCurveState.dmem.byte 0 = 0x00 ∧ onCurveG.dmem.byte 0 = 0x04 :=
  ⟨rfl, checks (by decide), ⟨checks (by decide), by decide⟩, ⟨checks (by decide), by decide⟩, rfl, by decide +kernel,
    by decide +kernel, by decide +kernel, by decide +kernel⟩

end Sys2Proof.Tests
end

section
/-! Byte strings and their big-endian integers (`00_scope.md` R11). -/

namespace Sys2Proof.Proofs

open Sys2Proof.Machine

/-! ### OS2IP and I2OSP -/

@[simp] theorem os2ip_nil : os2ip [] = 0 := rfl

/-- A byte at the end is the least significant one. -/
@[simp] theorem os2ip_concat (x : Bytes) (b : Byte) : os2ip (x ++ [b]) = os2ip x * 256 + b.toNat := by
  simp [os2ip]

/-- The value of a concatenation: the left part is shifted by the length of the right part. -/
theorem os2ip_append (x y : Bytes) : os2ip (x ++ y) = os2ip x * 256 ^ y.length + os2ip y := by
  induction y using List.reverseRecOn with
  | nil => simp
  | append_singleton y b ih =>
    rw [← List.append_assoc, os2ip_concat, os2ip_concat, ih, List.length_append, List.length_singleton, pow_succ]
    ring

/-- A byte in front is the most significant one. -/
theorem os2ip_cons (b : Byte) (x : Bytes) : os2ip (b :: x) = b.toNat * 256 ^ x.length + os2ip x := by
  have hb : os2ip [b] = b.toNat := by simp [os2ip]
  rw [← List.singleton_append, os2ip_append, hb]

/-- The big-endian sum of `00_scope.md` R11. -/
theorem os2ip_eq_sum (x : Bytes) :
    os2ip x = ((List.range x.length).map fun i => (x.getD i 0).toNat * 256 ^ (x.length - 1 - i)).sum := by
  induction x with
  | nil => rfl
  | cons b x ih =>
    rw [os2ip_cons, ih, List.length_cons, List.range_succ_eq_map, List.map_cons, List.sum_cons, List.map_map]
    simp [Function.comp_def, Nat.sub_sub, Nat.add_comm 1]

/-- I2OSP keeps the value modulo 256^w. -/
theorem os2ip_i2osp (x w : Nat) : os2ip (i2osp x w) = x % 256 ^ w := by
  induction w generalizing x with
  | zero => simp [i2osp, Nat.mod_one]
  | succ w ih =>
    rw [i2osp, os2ip_concat, ih, BitVec.toNat_ofNat, pow_succ' 256 w, Nat.mod_mul, show 2 ^ 8 = 256 from rfl]
    ring

theorem os2ip_i2osp_of_lt {x w : Nat} (h : x < 256 ^ w) : os2ip (i2osp x w) = x := by
  rw [os2ip_i2osp, Nat.mod_eq_of_lt h]

/-- I2OSP at a string's own length gives the string back, so a string is determined by its length and value. -/
theorem i2osp_os2ip (y : Bytes) : i2osp (os2ip y) y.length = y := by
  induction y using List.reverseRecOn with
  | nil => rfl
  | append_singleton y b ih =>
    have hdiv : (os2ip y * 256 + b.toNat) / 256 = os2ip y := by omega
    have hmod : BitVec.ofNat 8 (os2ip y * 256 + b.toNat) = b := by
      apply BitVec.eq_of_toNat_eq
      rw [BitVec.toNat_ofNat]
      omega
    rw [os2ip_concat, List.length_append, List.length_singleton, i2osp, hdiv, hmod, ih]

/-- Settles O31: the sum by induction from the most significant byte, the conversions by induction on the width from
the least significant one. -/
theorem bigEndianConversions : Obligations.BigEndianConversions := by
  refine ⟨os2ip_eq_sum, fun x w hx => ⟨i2osp_length x w, os2ip_i2osp_of_lt hx, ?_⟩⟩
  rintro y rfl rfl
  exact (i2osp_os2ip y).symm

end Sys2Proof.Proofs
end

section
/-! Modular inverses by Euclid's algorithm (`00_scope.md` R8). -/

namespace Sys2Proof.Proofs

open Sys2Proof.Machine

theorem lt_two_pow_bitLength (k : Nat) : k < 2 ^ bitLength k := by
  unfold bitLength
  split
  · omega
  · exact Nat.lt_log2_self

/-- One step of Euclid's algorithm at least halves the product of its two remainders, so twice the bit length of the
first of them is fuel enough. -/
theorem euclid_product_halves {r0 r1 k : Nat} (hlt : r1 < r0) (hprod : r0 * r1 < 2 ^ (k + 1)) :
    r1 * (r0 % r1) < 2 ^ k := by
  rcases Nat.eq_zero_or_pos r1 with rfl | hpos
  · simp
  have hrem : r0 % r1 < r1 := Nat.mod_lt _ hpos
  have hquot : 1 ≤ r0 / r1 := Nat.div_pos hlt.le hpos
  have hsplit : r1 * (r0 / r1) + r0 % r1 = r0 := Nat.div_add_mod r0 r1
  have htwice : 2 * (r0 % r1) ≤ r0 := by nlinarith
  rw [pow_succ] at hprod
  nlinarith

/-- The new multiplier t0 − q·t1 belongs to the new remainder r0 − q·r1. -/
theorem euclid_multiplier_step {m x r0 t0 r1 t1 : Nat} (ht1 : t1 ≤ m) (h0 : (x * t0 : ZMod m) = r0)
    (h1 : (x * t1 : ZMod m) = r1) :
    (x : ZMod m) * ((t0 + r0 / r1 * (m - t1)) % m : Nat) = (r0 % r1 : Nat) := by
  have hdiv : (r1 : ZMod m) * (r0 / r1 : Nat) + (r0 % r1 : Nat) = r0 := by
    exact_mod_cast congrArg (Nat.cast : Nat → ZMod m) (Nat.div_add_mod r0 r1)
  rw [ZMod.natCast_mod, Nat.cast_add, Nat.cast_mul, Nat.cast_sub ht1, ZMod.natCast_self]
  linear_combination h0 - ((r0 / r1 : Nat) : ZMod m) * h1 - hdiv

/-- With enough fuel Euclid's algorithm ends with the greatest common divisor, and keeps what ties each remainder to
its multiplier. -/
theorem euclidLoop_spec {m x : Nat} (fuel : Nat) {r0 t0 r1 t1 : Nat} (hm : 0 < m) (hlt : r1 < r0)
    (hprod : r0 * r1 < 2 ^ fuel) (ht1 : t1 ≤ m) (h0 : (x * t0 : ZMod m) = r0) (h1 : (x * t1 : ZMod m) = r1) :
    (euclidLoop m fuel r0 t0 r1 t1).1 = Nat.gcd r0 r1 ∧
      (x * (euclidLoop m fuel r0 t0 r1 t1).2 : ZMod m) = (euclidLoop m fuel r0 t0 r1 t1).1 := by
  induction fuel generalizing r0 t0 r1 t1 with
  | zero =>
    have hr1 : r1 = 0 := by
      by_contra hne
      have := Nat.mul_pos (Nat.zero_lt_of_lt hlt) (Nat.pos_of_ne_zero hne)
      omega
    subst hr1
    exact ⟨(Nat.gcd_zero_right r0).symm, h0⟩
  | succ fuel ih =>
    rw [euclidLoop]
    split
    case isTrue hr1 =>
      subst hr1
      exact ⟨(Nat.gcd_zero_right r0).symm, h0⟩
    case isFalse hr1 =>
      have hgcd : Nat.gcd r0 r1 = Nat.gcd r1 (r0 % r1) := by
        rw [Nat.gcd_comm r0 r1, Nat.gcd_rec r1 r0, Nat.gcd_comm]
      rw [hgcd]
      exact ih (Nat.mod_lt _ (Nat.pos_of_ne_zero hr1)) (euclid_product_halves hlt hprod) (Nat.mod_lt _ hm).le h1
        (euclid_multiplier_step ht1 h0 h1)

/-- The run of Euclid's algorithm in `modInverse`: the greatest common divisor of x and m, with a multiplier of x. -/
theorem euclidLoop_modInverse (x : Nat) {m : Nat} (hm : 0 < m) :
    (euclidLoop m (2 * bitLength m + 2) m 0 (x % m) (1 % m)).1 = Nat.gcd x m ∧
      (x * (euclidLoop m (2 * bitLength m + 2) m 0 (x % m) (1 % m)).2 : ZMod m) = Nat.gcd x m := by
  have hx : x % m < m := Nat.mod_lt x hm
  have hbits := lt_two_pow_bitLength m
  have hprod : m * (x % m) < 2 ^ (2 * bitLength m + 2) :=
    calc m * (x % m) < 2 ^ bitLength m * 2 ^ bitLength m := by nlinarith
      _ = 2 ^ (2 * bitLength m) := by rw [two_mul, pow_add]
      _ ≤ 2 ^ (2 * bitLength m + 2) := Nat.pow_le_pow_right (by omega) (by omega)
  obtain ⟨hgcd, hmul⟩ := euclidLoop_spec (x := x) (t0 := 0) (t1 := 1 % m) (2 * bitLength m + 2) hm hx hprod
    (Nat.mod_lt 1 hm).le (by simp) (by simp)
  have hcomm : Nat.gcd m (x % m) = Nat.gcd x m := by rw [Nat.gcd_comm, ← Nat.gcd_rec, Nat.gcd_comm]
  rw [hcomm] at hgcd
  exact ⟨hgcd, hmul.trans (congrArg _ hgcd)⟩

/-- No inverse exactly when gcd(x, m) ≠ 1 (`00_scope.md` R8). -/
theorem modInverse_eq_none_iff (x : Nat) {m : Nat} (hm : 0 < m) : modInverse x m = none ↔ Nat.gcd x m ≠ 1 := by
  simp [modInverse, (euclidLoop_modInverse x hm).1]

/-- What `modInverse` answers is a residue whose product with x is 1 mod m. -/
theorem modInverse_some {x m y : Nat} (hm : 0 < m) (h : modInverse x m = some y) :
    y < m ∧ x * y ≡ 1 [MOD m] := by
  obtain ⟨hgcd, hmul⟩ := euclidLoop_modInverse x hm
  simp only [modInverse, hgcd, Option.ite_none_right_eq_some, Option.some.injEq] at h
  obtain ⟨hone, rfl⟩ := h
  refine ⟨Nat.mod_lt _ hm, (ZMod.natCast_eq_natCast_iff _ _ _).1 ?_⟩
  rw [Nat.cast_mul, ZMod.natCast_mod, hmul, hone]

/-- The answer of `modInverse` is the one residue whose product with x is 1 mod m (`00_scope.md` R8). -/
theorem modInverse_eq_some_iff (x y : Nat) {m : Nat} (hm : 0 < m) :
    modInverse x m = some y ↔ y < m ∧ x * y ≡ 1 [MOD m] := by
  refine ⟨modInverse_some hm, fun ⟨hy, hxy⟩ => ?_⟩
  have hcop : Nat.Coprime x m := Nat.coprime_of_mul_modEq_one y hxy
  cases hinv : modInverse x m with
  | none => exact absurd hcop ((modInverse_eq_none_iff x hm).1 hinv)
  | some z =>
    obtain ⟨hz, hxz⟩ := modInverse_some hm hinv
    have hzy : z ≡ y [MOD m] := Nat.ModEq.cancel_left_of_coprime hcop.symm (hxz.trans hxy.symm)
    rw [hzy.eq_of_lt_of_lt hz hy]

/-- For m of at least 2, no multiple of 0 is 1 mod m, so an inverse is at least 1. -/
theorem residue_inverse_iff {x y m : Nat} (hm : 2 ≤ m) :
    y < m ∧ x * y ≡ 1 [MOD m] ↔ 1 ≤ y ∧ y ≤ m - 1 ∧ x * y % m = 1 := by
  rw [Nat.ModEq, Nat.mod_eq_of_lt (show 1 < m by omega)]
  constructor
  · rintro ⟨hy, hxy⟩
    have hne : y ≠ 0 := by
      rintro rfl
      simp at hxy
    omega
  · omega

/-- Settles O44: Euclid's algorithm ends with gcd(x, m) and a multiplier of x, and an inverse is unique by
cancellation. -/
theorem modularInverse : Obligations.ModularInverse := by
  intro x m hm
  have hpos : 0 < m := by omega
  exact ⟨fun y => (modInverse_eq_some_iff x y hpos).trans (residue_inverse_iff hm), modInverse_eq_none_iff x hpos⟩

end Sys2Proof.Proofs
end

section
/-! Completions of a command in flight, its operand checks, and I2OSP (`44_rsa_engine.md` R204). -/

namespace Sys2Proof.Proofs

open Sys2Proof.Machine Sys2Proof.Claims

/-! ### Completion records -/

/-- A rule that ends with an error completes with the error's record (`60_exceptions.md` R304). -/
theorem exec_eq_failed {i : Instr} {s : State} {c : InFlight} {e : CmdError} {draws : Nat} (hc : s.inflight = some c)
    (hrule : commandRule i s.rngDraws c s.dmem = { result := .error e, draws := draws }) :
    exec i s = .next (failed s e.code draws) := by
  rw [exec_commandRule, State.finish_inflight s _ hc, hrule]
  rfl

/-- A rule that ends with a MemWrite completes with the record of a success (`60_exceptions.md` R304). -/
theorem exec_eq_succeeded {i : Instr} {s : State} {c : InFlight} {dst : Word} {bytes : Bytes} {draws : Nat}
    (hc : s.inflight = some c)
    (hrule : commandRule i s.rngDraws c s.dmem = { result := okBytes dst.toNat bytes, draws := draws }) :
    exec i s = .next (succeeded s dst bytes draws) := by
  rw [exec_commandRule, State.finish_inflight s _ hc, hrule]
  rfl

/-! ### Operand checks -/

/-- The model's region for an address and a length of the operand table. -/
def operandRegion (r : Word × Nat) : Region := regionOf r.1 r.2

/-- The bounds check passes on the input regions and the output region of a command (`60_exceptions.md` R306). -/
theorem allInBounds_operands {i : Instr} {A : Args} {x : Bool} (h : RegionsInside i A x) :
    allInBounds ((inputs i A x ++ (output i A).toList).map operandRegion) = true := by
  obtain ⟨-, hin, hout⟩ := h
  rw [allInBounds_iff, List.forall_mem_map]
  intro r hr
  rcases List.mem_append.1 hr with hr | hr
  · exact hin r hr
  · exact hout r (Option.mem_toList.1 hr)

/-- The overlap check passes on the output region and the input regions of a command (`60_exceptions.md` R306). -/
theorem overlapsAny_operands {i : Instr} {A : Args} {x : Bool} {o : Word × Nat} (h : OutputApart i A x)
    (ho : output i A = some o) : (operandRegion o).overlapsAny ((inputs i A x).map operandRegion) = false := by
  rw [Bool.eq_false_iff, Ne, overlapsAny_iff]
  rintro ⟨_, hmem, hov⟩
  obtain ⟨r, hr, rfl⟩ := List.mem_map.1 hmem
  exact h o ho r hr hov

/-! ### I2OSP -/

/-- The rule of I2OSP once its regions pass the checks (`44_rsa_engine.md` R204). -/
theorem runI2osp_of_checks {c : InFlight} (m : Memory) (h : ChecksPass .i2osp c.args c.extRand) :
    runI2osp c m =
      if 256 ^ c.args.a2.toNat ≤ os2ip (m.read c.args.a0.toNat c.args.a1.toNat) then .error .intTooLarge
      else okBytes c.args.a3.toNat (i2osp (os2ip (m.read c.args.a0.toNat c.args.a1.toNat)) c.args.a2.toNat) := by
  have hbounds : allInBounds [region c.args.a0 c.args.a1, region c.args.a3 c.args.a2] = true :=
    allInBounds_operands h.1
  have hapart : (region c.args.a3 c.args.a2).overlapsAny [region c.args.a0 c.args.a1] = false :=
    overlapsAny_operands h.2 rfl
  simp only [runI2osp, hbounds, hapart]
  rfl

/-- Settles O42: past the checks the rule compares the source's value with 256^width, and the bytes it writes have
that value by O31's conversions. -/
theorem i2ospResult : Obligations.I2ospResult := by
  intro s c hc hchecks
  have hrule := runI2osp_of_checks s.dmem hchecks
  constructor
  · intro hlarge
    rw [if_pos hlarge] at hrule
    exact exec_eq_failed (i := .i2osp) (e := .intTooLarge) hc (congrArg Completion.noDraw hrule)
  · intro hfits
    rw [if_neg (Nat.not_le.2 hfits)] at hrule
    exact ⟨_, i2osp_length _ _, os2ip_i2osp_of_lt hfits,
      exec_eq_succeeded (i := .i2osp) hc (congrArg Completion.noDraw hrule)⟩

end Sys2Proof.Proofs
end

section
/-! What a completion leaves in the record: which errors a command can end with (`60_exceptions.md` R302), RESULT_LEN
(`10_state.md` R27) and VALID (`10_state.md` R32). -/

namespace Sys2Proof.Proofs

open Sys2Proof.Machine Sys2Proof.Claims

/-! ### No command ends with MASK_TOO_LONG (`43_rsa_padding.md` R173; U12) -/

/-- A rule ends with MASK_TOO_LONG past a check of another error only if the check passes and what follows it does. -/
theorem guard_maskTooLong {p : Prop} [Decidable p] {e : CmdError} {α : Type} {r : Except CmdError α}
    (he : e ≠ .maskTooLong) :
    (if p then .error e else r) = .error .maskTooLong ↔ ¬ p ∧ r = .error .maskTooLong := by
  split <;> simp [*]

/-- `guard_maskTooLong` for a rule that may draw. -/
theorem guard_result_maskTooLong {p : Prop} [Decidable p] {e : CmdError} {r : Completion} (he : e ≠ .maskTooLong) :
    (if p then Completion.noDraw (.error e) else r).result = .error .maskTooLong ↔
      ¬ p ∧ r.result = .error .maskTooLong := by
  split <;> simp [*]

theorem okBytes_ne_error (dst : Nat) (bytes : Bytes) (e : CmdError) : okBytes dst bytes ≠ .error e := nofun

theorem okValid_ne_error (v : Bool) (e : CmdError) : okValid v ≠ .error e := nofun

theorem b64Scan_ne_maskTooLong (x : Bytes) : b64Scan x ≠ some .maskTooLong := by
  fun_induction b64Scan x <;> simp_all

theorem b64Validate_ne_maskTooLong (x : Bytes) : b64Validate x ≠ .error .maskTooLong := by
  simp only [b64Validate]
  split
  · rename_i e he
    rintro ⟨⟩
    exact b64Scan_ne_maskTooLong _ he
  · simp [guard_maskTooLong]

theorem encPkcs1_ne_maskTooLong (d : Bytes) (n : Nat) : encPkcs1 d n ≠ .error .maskTooLong := by
  simp [encPkcs1, guard_maskTooLong]

theorem encPss_ne_maskTooLong (m salt : Bytes) (sLen modBits : Nat) :
    encPss m sLen modBits salt ≠ .error .maskTooLong := by
  simp [encPss, guard_maskTooLong]

theorem rsasp1_ne_maskTooLong (n d m : Nat) : rsasp1 n d m ≠ .error .maskTooLong := by
  simp [rsasp1, guard_maskTooLong]

theorem rsavp1_ne_maskTooLong (n e s : Nat) : rsavp1 n e s ≠ .error .maskTooLong := by
  simp [rsavp1, guard_maskTooLong]

theorem decPoint_ne_maskTooLong (op : Bytes) : decPoint op ≠ .error .maskTooLong := by
  unfold decPoint
  split
  · nofun
  · split
    · simp [guard_maskTooLong]
    · nofun

theorem pointDouble_ne_maskTooLong (p : Point) : pointDouble p ≠ .error .maskTooLong := by
  fun_cases pointDouble p <;> nofun

theorem pointAdd_ne_maskTooLong (p q : Point) : pointAdd p q ≠ .error .maskTooLong := by
  fun_cases pointAdd p q
  case case4 => exact pointDouble_ne_maskTooLong _
  all_goals nofun

/-- A sequence of two steps ends with an error only if one of them does. -/
theorem bind_ne_error {α β : Type} {x : Except CmdError α} {f : α → Except CmdError β} {e : CmdError}
    (hx : x ≠ .error e) (hf : ∀ a, f a ≠ .error e) : (x >>= f) ≠ .error e := by
  cases x with
  | error e' => exact fun h => hx (by cases h; rfl)
  | ok a => exact hf a

theorem scalarLoop_ne_maskTooLong (bits k : Nat) (r a : Point) : scalarLoop bits k r a ≠ .error .maskTooLong := by
  induction bits generalizing k r a with
  | zero => nofun
  | succ bits ih =>
    have hdouble (r' : Point) : (do let a' ← pointDouble a; scalarLoop bits (k / 2) r' a') ≠ .error .maskTooLong :=
      bind_ne_error (pointDouble_ne_maskTooLong a) fun a' => ih _ _ _
    rw [scalarLoop]
    split
    · refine bind_ne_error (pointAdd_ne_maskTooLong r a) fun r' => ?_
      split
      · nofun
      · exact hdouble r'
    · refine bind_ne_error nofun fun r' => ?_
      split
      · nofun
      · exact hdouble r'

theorem scalarMultiply_ne_maskTooLong (p : Point) (k : Nat) : scalarMultiply p k ≠ .error .maskTooLong :=
  scalarLoop_ne_maskTooLong _ _ _ _

theorem es256Try_ne_maskTooLong (d e k : Nat) : es256Try d e k ≠ .error .maskTooLong := by
  fun_cases es256Try d e k
  case case1 x hx =>
    rintro ⟨⟩
    exact scalarMultiply_ne_maskTooLong _ _ hx
  all_goals nofun

theorem es256Loop_ne_maskTooLong (d e : Nat) (nonce : Nat → Nat) (tries drawn : Nat) :
    (es256Loop d e nonce tries drawn).1 ≠ .error .maskTooLong := by
  fun_induction es256Loop d e nonce tries drawn
  case case2 x hx =>
    rintro ⟨⟩
    exact es256Try_ne_maskTooLong _ _ _ hx
  case case3 ih => exact ih
  all_goals nofun

theorem es256Accepts_ne_maskTooLong (q : Point) (msg : Bytes) (r s : Nat) :
    es256Accepts q msg r s ≠ .error .maskTooLong := by
  unfold es256Accepts
  split
  · nofun
  · refine bind_ne_error (scalarMultiply_ne_maskTooLong _ _) fun p1 => ?_
    refine bind_ne_error (scalarMultiply_ne_maskTooLong _ _) fun p2 => ?_
    refine bind_ne_error (pointAdd_ne_maskTooLong _ _) fun p => ?_
    cases p <;> nofun

theorem es256Result_ne_maskTooLong {dst : Region} {r : Except CmdError (Nat × Nat)} (hr : r ≠ .error .maskTooLong) :
    es256Result dst r ≠ .error .maskTooLong := by
  cases r with
  | error e => exact fun h => hr (by cases h; rfl)
  | ok sig => nofun

/-- No command ends with MASK_TOO_LONG: the one check for it, of MGF1, compares an ARG value with 2^37. -/
theorem commandRule_ne_maskTooLong (i : Instr) (n : Nat) (c : InFlight) (m : Memory) :
    (commandRule i n c m).result ≠ .error .maskTooLong := by
  intro h
  cases i <;> simp only [commandRule, noDraw_result, runSha256, runHmacSha256, runHmacVerify, runB64uEncode,
    runB64uDecode, runEmsaPkcs1Encode, runMgf1, runEmsaPssVerify, runI2osp, runRsasp1, runRsavp1, runRsaPrimitive,
    runRs256Sign, runRs256Verify, runPs256Verify, runEcDouble, runEcAdd, runEcScalarMul, runEcOnCurve,
    runEs256Verify, runEmsaPssEncode, runPs256Sign, runEs256Sign, guard_maskTooLong, guard_result_maskTooLong,
    ne_eq, reduceCtorEq, not_false_eq_true, okBytes_ne_error, okValid_ne_error, and_false] at h
  case b64uDecode => grind [b64Validate_ne_maskTooLong, okBytes]
  case emsaPkcs1Encode => grind [encPkcs1_ne_maskTooLong, okBytes]
  case mgf1 =>
    have hlen : ¬ (region c.args.a3 c.args.a2).len > 2 ^ 37 := by
      simp only [region]
      omega
    rw [if_neg hlen] at h
    simp [guard_maskTooLong, okBytes_ne_error] at h
  case emsaPssEncode => grind [encPss_ne_maskTooLong, okBytes]
  case rsasp1 => grind [rsasp1_ne_maskTooLong, okBytes]
  case rsavp1 => grind [rsavp1_ne_maskTooLong, okBytes]
  case rs256Sign => grind [rs256Encode, encPkcs1_ne_maskTooLong, rsasp1_ne_maskTooLong, okBytes]
  case rs256Verify => grind [rs256Encode, encPkcs1_ne_maskTooLong, rsavp1_ne_maskTooLong, okValid]
  case ps256Sign => grind [encPss_ne_maskTooLong, rsasp1_ne_maskTooLong, okBytes]
  case ps256Verify => grind [rsavp1_ne_maskTooLong, okValid]
  case ecDouble => grind [decPoint_ne_maskTooLong, pointDouble_ne_maskTooLong, okBytes]
  case ecAdd => grind [decPoint_ne_maskTooLong, pointAdd_ne_maskTooLong, okBytes]
  case ecScalarMul => grind [decPoint_ne_maskTooLong, scalarMultiply_ne_maskTooLong, okBytes]
  case es256Sign =>
    have hloop := fun d e nonce tries =>
      es256Result_ne_maskTooLong (dst := regionOf c.args.a3 64) (es256Loop_ne_maskTooLong d e nonce tries 0)
    obtain ⟨-, -, -, h⟩ := h
    split at h
    · rw [guard_result_maskTooLong (by decide)] at h
      exact hloop _ _ _ _ h.2
    · exact hloop _ _ _ _ h
  case es256Verify => grind [es256Accepts_ne_maskTooLong, okValid]

/-! ### What a success leaves in DMEM, RESULT_LEN and VALID -/

/-- The commands without an output region are those that report a boolean (`30_encoding.md` R95). -/
theorem destination_eq_none_iff (i : Instr) (A : Args) : destination i A = none ↔ reportsValid i = true := by
  cases i <;> simp [destination, reportsValid]

/-- The six commands that report a boolean (`10_state.md` R32). -/
theorem reportsValid_iff (i : Instr) : reportsValid i = true ↔
    i = .hmacVerify ∨ i = .emsaPssVerify ∨ i = .rs256Verify ∨ i = .ps256Verify ∨ i = .ecOnCurve ∨
      i = .es256Verify := by
  cases i <;> simp [reportsValid]

theorem writes_reports {i : Instr} {c : InFlight} {o : Output} (h : Writes i c o) (hv : o.valid = true) :
    reportsValid i = true := by
  rcases h with ⟨hnone, -⟩ | ⟨dst, -, -, hvalid, -⟩
  · exact (destination_eq_none_iff i c.args).1 hnone
  · rw [hvalid] at hv
    cases hv

/-- The bytes a success writes lie in DMEM (`20_memory.md` R71). -/
theorem writes_inside {i : Instr} {c : InFlight} {o : Output} (h : Writes i c o) : o.dst + o.bytes.length ≤ 65536 := by
  rcases h with ⟨-, hbytes, hdst, -⟩ | ⟨dst, -, hdst, -, hin, -⟩
  · simp [hbytes, hdst]
  · exact hdst ▸ hin

/-- RESULT_LEN holds the number of bytes written without wrapping. -/
theorem writes_resultLen_toNat {i : Instr} {c : InFlight} {o : Output} (h : Writes i c o) :
    (BitVec.ofNat 32 o.bytes.length).toNat = o.bytes.length := by
  have := writes_inside h
  rw [BitVec.toNat_ofNat, Nat.mod_eq_of_lt (by omega)]

theorem writes_resultLen_le {i : Instr} {c : InFlight} {o : Output} (h : Writes i c o) :
    (BitVec.ofNat 32 o.bytes.length).toNat ≤ Config.dmemBytes := by
  rw [writes_resultLen_toNat h]
  exact (Nat.le_add_left _ _).trans (writes_inside h)

/-- A success writes outLen bytes, where the operand table gives outLen (`30_encoding.md` R95). -/
theorem writes_length_eq {i : Instr} {c : InFlight} {o : Output} {l : Nat} (h : Writes i c o)
    (hl : outLen i c.args = some l) : o.bytes.length = l := by
  rcases h with ⟨-, hbytes, -, hzero⟩ | ⟨dst, -, -, -, -, hlen, -⟩
  · rw [hzero, Option.some_inj] at hl
    simp [hbytes, hl]
  · exact hlen l hl

/-- Settles O25: a success writes exactly outLen bytes, so few that RESULT_LEN does not wrap; an error clears it. -/
theorem resultLenIsOutLen : Obligations.ResultLenIsOutLen := by
  intro i s t c hc h
  obtain ⟨c', hc', ⟨o, -, hw, rfl⟩ | ⟨e, -, rfl⟩⟩ := exec_next_cases h
  · obtain rfl : c = c' := Option.some_inj.1 (hc.symm.trans hc')
    exact ⟨nofun, fun l hl _ => (writes_resultLen_toNat hw).trans (writes_length_eq hw hl)⟩
  · exact ⟨fun _ => rfl, nofun⟩

/-- Settles O26: an error clears VALID, and a success sets it only where it wrote nothing. -/
theorem validOnlyFromVerify : Obligations.ValidOnlyFromVerify := by
  intro i s t h hv
  obtain ⟨c, -, ⟨o, -, hw, rfl⟩ | ⟨e, -, rfl⟩⟩ := exec_next_cases h
  · exact ⟨rfl, rfl, (reportsValid_iff i).1 (writes_reports hw hv)⟩
  · cases hv

end Sys2Proof.Proofs
end

section
/-! Every event of the core keeps the invariant. -/

namespace Sys2Proof.Proofs

open Sys2Proof.Machine Sys2Proof.Claims

/-! ### Events that leave the completion record alone -/

/-- From s to t the completion record and CMD_LAST stay, DMEM stays canonical, no command is issued or completed, DONE
is not set, and ARG is written only where no command is in flight. -/
structure KeepsRecord (s t : State) : Prop where
  dmem : s.dmem.wf = true → t.dmem.wf = true
  errcode : t.errcode = s.errcode
  resultLen : t.resultLen = s.resultLen
  cmdLast : t.cmdLast = s.cmdLast
  inflight : t.inflight = s.inflight
  err : t.status.err = s.status.err
  valid : t.status.valid = s.status.valid
  done : s.status.done = false → t.status.done = false
  args : s.inflight ≠ none → t.args = s.args

/-- The invariant speaks of nothing but what `KeepsRecord` keeps. -/
theorem invariant_of_keepsRecord {s t : State} (h : Invariant s) (k : KeepsRecord s t) : Invariant t where
  dmem_canonical := k.dmem h.dmem_canonical
  errcode_known := k.errcode ▸ h.errcode_known
  err_iff_class := by
    rw [k.err, k.errcode]
    exact h.err_iff_class
  err_clears := by
    rw [k.err, k.resultLen, k.valid]
    exact h.err_clears
  valid_reported := by
    rw [k.valid, k.cmdLast]
    exact h.valid_reported
  resultLen_bound := k.resultLen ▸ h.resultLen_bound
  busy_record := by
    intro c hc
    rw [k.inflight] at hc
    obtain ⟨hword, hargs, hdone, herr, hvalid, hcode, hlen⟩ := h.busy_record c hc
    have hbusy : s.inflight ≠ none := by simp [hc]
    exact ⟨hword.trans k.cmdLast.symm, hargs.trans (k.args hbusy).symm, k.done hdone, k.err.trans herr,
      k.valid.trans hvalid, k.errcode.trans hcode, k.resultLen.trans hlen⟩

theorem keepsRecord_turns (s : State) (rest : List Turn) : KeepsRecord s { s with turns := rest } :=
  ⟨id, rfl, rfl, rfl, rfl, rfl, rfl, id, fun _ => rfl⟩

theorem keepsRecord_readData (s : State) (v : Word) : KeepsRecord s { s with readData := v } :=
  ⟨id, rfl, rfl, rfl, rfl, rfl, rfl, id, fun _ => rfl⟩

theorem keepsRecord_dropAccess (s : State) : KeepsRecord s s.dropAccess :=
  ⟨id, rfl, rfl, rfl, rfl, rfl, rfl, id, fun _ => rfl⟩

theorem keepsRecord_overrun (s : State) :
    KeepsRecord s { s with status := { s.status with cmdOverrun := true } } :=
  ⟨id, rfl, rfl, rfl, rfl, rfl, rfl, id, fun _ => rfl⟩

theorem keepsRecord_ctrl (s : State) (k : Ctrl) : KeepsRecord s { s with ctrl := k } :=
  ⟨id, rfl, rfl, rfl, rfl, rfl, rfl, id, fun _ => rfl⟩

/-- A STATUS write clears bits only, and neither ERR nor VALID (`10_state.md` R24). -/
theorem keepsRecord_writeOneToClear (s : State) (w : Word) :
    KeepsRecord s { s with status := s.status.writeOneToClear w } :=
  ⟨id, rfl, rfl, rfl, rfl, rfl, rfl, fun h => by simp [Status.writeOneToClear, h], fun _ => rfl⟩

theorem keepsRecord_idle_args {s : State} (hidle : s.inflight = none) (r : Args) :
    KeepsRecord s { s with args := r } :=
  ⟨id, rfl, rfl, rfl, rfl, rfl, rfl, id, fun hbusy => absurd hidle hbusy⟩

theorem keepsRecord_dmem {s : State} {m : Memory} (hm : s.dmem.wf = true → m.wf = true) :
    KeepsRecord s { s with dmem := m } :=
  ⟨hm, rfl, rfl, rfl, rfl, rfl, rfl, id, fun _ => rfl⟩

/-! ### Issue, completion and reset -/

/-- An accepted command clears the record and takes CMD_LAST and ARG into flight (`10_state.md` R37). -/
theorem invariant_accept {s : State} (h : Invariant s) (w : Word) : Invariant (s.accept w) where
  dmem_canonical := h.dmem_canonical
  errcode_known := .inl rfl
  err_iff_class := by simp [errcodeClass]
  err_clears := nofun
  valid_reported := nofun
  resultLen_bound := Nat.zero_le _
  busy_record := by
    rintro c ⟨⟩
    exact ⟨rfl, rfl, rfl, rfl, rfl, rfl, rfl⟩

theorem invariant_issue {s : State} (h : Invariant s) (w : Word) : Invariant (s.issue w) := by
  rcases State.issue_cases s w with ⟨-, heq⟩ | ⟨-, heq⟩
  · exact heq ▸ invariant_accept h w
  · exact heq ▸ invariant_of_keepsRecord h (keepsRecord_overrun s)

/-- ERRCODE.CLASS of an error is not 0 (`60_exceptions.md` R301). -/
theorem errcodeClass_code_ne_zero (e : CmdError) : errcodeClass e.code ≠ 0 := by
  cases e <;> decide

/-- An error completion writes a code that this core raises, sets ERR and clears the rest of the record. -/
theorem invariant_completeError {s : State} (h : Invariant s) {e : CmdError} (he : e ≠ .maskTooLong) (n : Nat) :
    Invariant { s.completeError e with rngDraws := n } where
  dmem_canonical := h.dmem_canonical
  errcode_known := .inr ⟨e, he, rfl⟩
  err_iff_class := iff_of_true rfl (errcodeClass_code_ne_zero e)
  err_clears := fun _ => ⟨rfl, rfl⟩
  valid_reported := nofun
  resultLen_bound := Nat.zero_le _
  busy_record := nofun

/-- A success writes inside DMEM, and sets VALID only for a command that reports a boolean. -/
theorem invariant_completeOk {s : State} (h : Invariant s) {i : Instr} {c : InFlight} {o : Output} (hw : Writes i c o)
    (hi : decode s.cmdLast = .ok i) (n : Nat) : Invariant { s.completeOk o with rngDraws := n } where
  dmem_canonical := Memory.wf_write _ _ _ (writes_inside hw) h.dmem_canonical
  errcode_known := .inl rfl
  err_iff_class := by simp [errcodeClass]
  err_clears := nofun
  valid_reported := fun hv => ⟨i, hi, writes_reports hw hv⟩
  resultLen_bound := writes_resultLen_le hw
  busy_record := nofun

theorem invariant_exec {s t : State} {i : Instr} {c : InFlight} (h : Invariant s) (hc : s.inflight = some c)
    (hi : decode c.word = .ok i) (ht : exec i s = .next t) : Invariant t := by
  obtain ⟨hword, -⟩ := h.busy_record c hc
  obtain ⟨c', -, ⟨o, -, hw, rfl⟩ | ⟨e, he, rfl⟩⟩ := exec_next_cases ht
  · exact invariant_completeOk h hw (hword ▸ hi) _
  · exact invariant_completeError h (fun hmask => commandRule_ne_maskTooLong _ _ _ _ (hmask ▸ he)) _

/-- A state whose registers are those after reset meets the invariant, whatever canonical DMEM it holds. -/
theorem invariant_resetInput {s : State} (h : Invariant s) : Invariant s.resetInput where
  dmem_canonical := h.dmem_canonical
  errcode_known := .inl rfl
  err_iff_class := by simp [errcodeClass, State.reset]
  err_clears := nofun
  valid_reported := nofun
  resultLen_bound := Nat.zero_le _
  busy_record := nofun

theorem invariant_powerOnReset {s : State} (h : Invariant s) : Invariant s.powerOnReset :=
  invariant_of_keepsRecord (invariant_resetInput h) (keepsRecord_dmem fun _ => Memory.wf_atPowerOn _)

/-! ### Host accesses and the step -/

theorem invariant_writeReg {s : State} (h : Invariant s) (r : Reg) (w : Word) : Invariant (s.writeReg r w) := by
  rcases State.writeReg_cases s r w with heq | ⟨-, heq⟩ | ⟨-, heq⟩ | ⟨-, heq⟩ | ⟨i, -, -, heq⟩ | ⟨i, -, hbusy, heq⟩ <;>
    rw [heq]
  · exact h
  · exact invariant_of_keepsRecord h (keepsRecord_ctrl s _)
  · exact invariant_of_keepsRecord h (keepsRecord_writeOneToClear s w)
  · exact invariant_issue h w
  · exact invariant_of_keepsRecord h (keepsRecord_dropAccess s)
  · exact invariant_of_keepsRecord h (keepsRecord_idle_args (by simpa using hbusy) _)

theorem invariant_hostWrite {s : State} (h : Invariant s) (size : AccessSize) (o : Offset) (v : Word) :
    Invariant (s.hostWrite size o v) := by
  rcases State.hostWrite_cases s size o v with heq | ⟨r, heq⟩ | heq | ⟨d, hp, hok, heq⟩ <;> rw [heq]
  · exact h
  · exact invariant_writeReg h r v
  · exact invariant_of_keepsRecord h (keepsRecord_dropAccess s)
  · have hin := dmem_access_in_bounds hp hok
    exact invariant_of_keepsRecord h (keepsRecord_dmem (Memory.wf_write _ _ _ (by simpa using hin)))

theorem invariant_hostRead {s : State} (h : Invariant s) (size : AccessSize) (o : Offset) :
    Invariant (s.hostRead size o).2 := by
  rcases State.hostRead_cases s size o with heq | heq <;> rw [heq]
  · exact h
  · exact invariant_of_keepsRecord h (keepsRecord_dropAccess s)

theorem invariant_hostAccess {s : State} (h : Invariant s) (a : HostAccess) : Invariant (s.hostAccess a) := by
  cases a with
  | read size o => exact invariant_of_keepsRecord (invariant_hostRead h size o) (keepsRecord_readData _ _)
  | write size o v => exact invariant_hostWrite h size o v

theorem invariant_sequencerTurn {s t : State} (h : Invariant s) (ht : sequencerTurn s = .next t) : Invariant t := by
  rcases sequencerTurn_cases s with ⟨-, heq⟩ | ⟨c, i, hc, hi, heq⟩ | ⟨c, e, -, -, heq⟩ <;> rw [heq] at ht
  · cases ht
    exact h
  · exact invariant_exec h hc hi ht
  · cases ht
    exact invariant_completeError h (by decide) _

/-- Settles O9: each of the five kinds of event keeps the invariant. -/
theorem stepKeepsInvariant : Obligations.StepKeepsInvariant := by
  intro s t h ht
  have hrest (rest : List Turn) : Invariant { s with turns := rest } :=
    invariant_of_keepsRecord h (keepsRecord_turns s rest)
  rcases step_cases s with ⟨-, heq⟩ | ⟨rest, -, heq⟩ | ⟨a, rest, -, heq⟩ | ⟨rest, -, heq⟩ | ⟨rest, -, heq⟩ <;>
    rw [heq] at ht
  · exact invariant_sequencerTurn h ht
  · exact invariant_sequencerTurn (hrest rest) ht
  · cases ht
    exact invariant_hostAccess (hrest rest) a
  · cases ht
    exact invariant_resetInput (hrest rest)
  · cases ht
    exact invariant_powerOnReset (hrest rest)

end Sys2Proof.Proofs
end

section
/-! A command's rule reads only the operands it names, as they were taken at issue (`10_state.md` R33; `30_encoding.md`
R95). -/

namespace Sys2Proof.Proofs

open Sys2Proof.Machine Sys2Proof.Claims

/-- ARG0 to ARG6 by name. -/
theorem args_get (A : Args) : A.get 0 = A.a0 ∧ A.get 1 = A.a1 ∧ A.get 2 = A.a2 ∧ A.get 3 = A.a3 ∧ A.get 4 = A.a4 ∧
    A.get 5 = A.a5 ∧ A.get 6 = A.a6 :=
  ⟨rfl, rfl, rfl, rfl, rfl, rfl, rfl⟩

/-- A rule reads of the record in flight only the ARG values its command names and, where it may draw, X. -/
theorem commandRule_congr {i : Instr} {c c' : InFlight} (n : Nat) (m : Memory)
    (hx : mayDraw i = true → c'.extRand = c.extRand)
    (ha : ∀ j ∈ namedArgs i c.extRand, c'.args.get j = c.args.get j) :
    commandRule i n c' m = commandRule i n c m := by
  cases i
  case emsaPssEncode | ps256Sign | es256Sign =>
    cases hX : c.extRand <;> simp [hX, namedArgs, args_get] at ha <;>
      simp [commandRule, runEmsaPssEncode, runPs256Sign, runEs256Sign, whenExternal, hX, hx rfl, ha]
  all_goals
    simp only [namedArgs, List.forall_mem_cons, List.not_mem_nil, false_imp_iff, implies_true, and_true,
      args_get] at ha
    simp only [commandRule, runSha256, runHmacSha256, runHmacVerify, runB64uEncode, runB64uDecode, runEmsaPkcs1Encode,
      runMgf1, runEmsaPssVerify, runI2osp, runRsasp1, runRsavp1, runRsaPrimitive, runRs256Sign, runRs256Verify,
      runPs256Verify, runEcDouble, runEcAdd, runEcScalarMul, runEcOnCurve, runEs256Verify, ha]

/-- A completion passes CTRL and ARG through and forgets the record in flight. -/
theorem complete_of_operands (s : State) (d : Completion) (c : Option InFlight) (k : Ctrl) (r : Args) :
    State.complete { s with inflight := c, ctrl := k, args := r } d = { s.complete d with ctrl := k, args := r } := by
  rcases d with ⟨e | o, n⟩ <;> rfl

/-- Settles O28: the rule reads the same operands, and the completion passes the changed registers through. -/
theorem operandsTakenAtIssue : Obligations.OperandsTakenAtIssue := by
  intro i s t c c' k r hc hx ha ht
  rw [exec_commandRule, State.finish_inflight s _ hc, Host.Outcome.next.injEq] at ht
  rw [exec_commandRule, State.finish_inflight _ _ rfl, commandRule_congr _ _ hx ha, complete_of_operands, ht]

end Sys2Proof.Proofs
end

section
/-! The host port: which access is performed at which place (`20_memory.md` R61 to R69), the words read at STATUS and
CTRL (`10_state.md` R23, R24), what a register write stores, and the byte lanes of DMEM (`20_memory.md` R68). -/

namespace Sys2Proof.Proofs

open Sys2Proof.Machine Sys2Proof.Claims

/-! ### Performed and ignored accesses -/

theorem placeOf_register {o : Offset} (h : o.toNat < 0x1000) : placeOf o = .register o.toNat := by
  rw [placeOf, if_pos h]

theorem placeOf_unmapped {o : Offset} (hlow : 0x1000 ≤ o.toNat) (hhigh : o.toNat < 0x10000) :
    placeOf o = .unmapped := by
  rw [placeOf, if_neg (by omega), if_pos hhigh]

/-- DMEM fills the window from 0x10000 to its end. -/
theorem placeOf_dmem {o : Offset} {d : Nat} (h : o.toNat = 0x10000 + d) : placeOf o = .dmem d := by
  have hlt := o.isLt
  rw [placeOf, if_neg (by omega), if_neg (by omega), if_pos (by simp only [Config.dmemBytes]; omega), h,
    Nat.add_sub_cancel_left]

theorem registerAccessOk_word {d : Nat} (h : d % 4 = 0) : registerAccessOk .word d = true := by
  simp [registerAccessOk, AccessSize.bytes, h]

theorem dmemAccessOk_idle {s : State} {size : AccessSize} {d : Nat} (hidle : s.inflight = none)
    (hd : d % size.bytes = 0) : s.dmemAccessOk size d = true := by
  simp [State.dmemAccessOk, hidle, hd]

/-- An aligned four-byte read of a register returns its value (`20_memory.md` R64). -/
theorem hostRead_register (s : State) {o : Offset} (h : o.toNat < 0x1000) (ha : o.toNat % 4 = 0) :
    s.hostRead .word o = (s.readReg (regAt o.toNat), s) := by
  simp only [State.hostRead, placeOf_register h, registerAccessOk_word ha, if_true]

/-- An aligned four-byte write of a register is performed (`20_memory.md` R64). -/
theorem hostWrite_register (s : State) {o : Offset} (v : Word) (h : o.toNat < 0x1000) (ha : o.toNat % 4 = 0) :
    s.hostWrite .word o v = s.writeReg (regAt o.toNat) v := by
  simp only [State.hostWrite, placeOf_register h, registerAccessOk_word ha, if_true]

theorem hostRead_unmapped (s : State) (size : AccessSize) {o : Offset} (h : placeOf o = .unmapped) :
    s.hostRead size o = (0, s) := by
  simp only [State.hostRead, h]

theorem hostWrite_unmapped (s : State) (size : AccessSize) {o : Offset} (v : Word) (h : placeOf o = .unmapped) :
    s.hostWrite size o v = s := by
  simp only [State.hostWrite, h]

/-- An aligned DMEM read of an idle core is performed (`20_memory.md` R65). -/
theorem hostRead_dmem {s : State} {size : AccessSize} {o : Offset} {d : Nat} (hp : placeOf o = .dmem d)
    (hok : s.dmemAccessOk size d = true) : s.hostRead size o = (lanesToWord (s.dmem.read d size.bytes), s) := by
  simp only [State.hostRead, hp, hok, if_true]

/-- An aligned DMEM write of an idle core is performed (`20_memory.md` R65). -/
theorem hostWrite_dmem {s : State} {size : AccessSize} {o : Offset} {d : Nat} (v : Word) (hp : placeOf o = .dmem d)
    (hok : s.dmemAccessOk size d = true) :
    s.hostWrite size o v = { s with dmem := s.dmem.write d (wordToLanes v size.bytes) } := by
  simp only [State.hostWrite, hp, hok, if_true]

/-! ### The registers of the map (`10_state.md` R21) -/

theorem hostWrite_ctrl (s : State) (v : Word) :
    s.hostWrite .word 0x00008 v = { s with ctrl := Ctrl.ofWord v } :=
  hostWrite_register s v (by decide) (by decide)

theorem hostWrite_status (s : State) (v : Word) :
    s.hostWrite .word 0x0000C v = { s with status := s.status.writeOneToClear v } :=
  hostWrite_register s v (by decide) (by decide)

theorem hostWrite_cmd (s : State) (v : Word) : s.hostWrite .word 0x00010 v = s.issue v :=
  hostWrite_register s v (by decide) (by decide)

/-- The registers ARG0 to ARG7 stand at 0x020 to 0x03C. -/
theorem regAt_arg {d : Nat} {i : Fin 8} (h : d = 0x020 + 4 * i.val) : regAt d = .arg i := by
  subst h
  fin_cases i <;> rfl

/-- The unimplemented registers (`10_state.md` R29). -/
theorem regAt_unimplemented {d : Nat} (ha : d % 4 = 0) (h : d = 0x01C ∨ 0x040 ≤ d) : regAt d = .unimplemented := by
  unfold regAt
  repeat rw [if_neg (by omega)]
  rw [dif_neg (by omega)]

/-- Settles O16: the registers named there neither store a write nor differ from their value, and an unmapped offset
is no register and no DMEM. -/
theorem ignoredAccesses : Obligations.IgnoredAccesses := by
  intro s v
  refine ⟨hostRead_register s (by decide) (by decide), hostRead_register s (by decide) (by decide),
    hostWrite_register s v (by decide) (by decide), hostWrite_register s v (by decide) (by decide),
    hostWrite_register s v (by decide) (by decide), hostWrite_register s v (by decide) (by decide), ?_, ?_⟩
  · intro o ha ho
    have hlt : o.toNat < 0x1000 := by omega
    have hreg : regAt o.toNat = .unimplemented := regAt_unimplemented ha (by omega)
    rw [hostRead_register s hlt ha, hostWrite_register s v hlt ha, hreg]
    exact ⟨rfl, rfl⟩
  · intro size o hlow hhigh
    have hp := placeOf_unmapped hlow hhigh
    exact ⟨hostRead_unmapped s size hp, hostWrite_unmapped s size v hp⟩

/-! ### The words of STATUS and CTRL -/

/-- The STATUS word bit by bit, least significant first (`10_state.md` R24). -/
theorem statusWord_eq_bits (s : State) : s.statusWord = BitVec.ofNat 32 (Nat.bit s.busy (Nat.bit s.status.done
    (Nat.bit s.status.err (Nat.bit s.status.valid (Nat.bit s.status.cmdOverrun (Nat.bit s.status.accessErr 0)))))) := by
  simp only [State.statusWord, Nat.bit_val]
  congr 1
  omega

/-- The CTRL word bit by bit, least significant first (`10_state.md` R23). -/
theorem ctrlWord_eq_bits (k : Ctrl) : k.toWord = BitVec.ofNat 32 (Nat.bit k.ie (Nat.bit k.extRand 0)) := by
  simp only [Ctrl.toWord, Nat.bit_val]
  congr 1
  omega

/-- The bits of the STATUS word: the six flags, and 0 from bit 6 on (`10_state.md` R24). -/
theorem statusWord_getLsbD (s : State) :
    s.statusWord.getLsbD 0 = s.busy ∧ s.statusWord.getLsbD 1 = s.status.done ∧ s.statusWord.getLsbD 2 = s.status.err ∧
      s.statusWord.getLsbD 3 = s.status.valid ∧ s.statusWord.getLsbD 4 = s.status.cmdOverrun ∧
      s.statusWord.getLsbD 5 = s.status.accessErr ∧ ∀ j, s.statusWord.getLsbD (j + 6) = false := by
  simp only [statusWord_eq_bits, BitVec.getLsbD_ofNat, Nat.testBit_bit_zero, Nat.testBit_bit_succ, Nat.zero_testBit,
    Nat.reduceLT, decide_true, Bool.true_and, Bool.and_false, implies_true, and_self]

/-- The bits of the CTRL word: IE and EXT_RAND, and 0 from bit 2 on (`10_state.md` R23). -/
theorem ctrlWord_getLsbD (k : Ctrl) :
    k.toWord.getLsbD 0 = k.ie ∧ k.toWord.getLsbD 1 = k.extRand ∧ ∀ j, k.toWord.getLsbD (j + 2) = false := by
  simp only [ctrlWord_eq_bits, BitVec.getLsbD_ofNat, Nat.testBit_bit_zero, Nat.testBit_bit_succ, Nat.zero_testBit,
    Nat.reduceLT, decide_true, Bool.true_and, Bool.and_false, implies_true, and_self]

/-- Settles O59: both registers are read at any time, and their words are `statusWord` and `Ctrl.toWord`. -/
theorem statusAndControlRead : Obligations.StatusAndControlRead := by
  intro s
  obtain ⟨hbusy, hdone, herr, hvalid, hoverrun, haccess, hrest⟩ := statusWord_getLsbD s
  obtain ⟨hie, hext, hreserved⟩ := ctrlWord_getLsbD s.ctrl
  refine ⟨s.statusWord, s.ctrl.toWord, hostRead_register s (by decide) (by decide),
    hostRead_register s (by decide) (by decide), ?_, hdone, herr, hvalid, hoverrun, haccess, ?_, hie, hext, ?_⟩
  · rw [hbusy, State.busy, Option.isSome_iff_ne_none]
  · intro j hj
    obtain ⟨j, rfl⟩ := Nat.exists_eq_add_of_le' hj
    exact hrest j
  · intro j hj
    obtain ⟨j, rfl⟩ := Nat.exists_eq_add_of_le' hj
    exact hreserved j

/-! ### Register writes -/

/-- A bit of STATUS stays under a write unless it is a W1C bit (mask 0x32) written as 1 (`10_state.md` R24). -/
theorem statusMask_getLsbD (v : Word) (j : Nat) :
    (~~~(v &&& 0x32)).getLsbD j = (decide (j < 32) && !(v.getLsbD j && (0x32 : Word).getLsbD j)) := by
  simp

/-- What a STATUS write leaves of the STATUS word (`10_state.md` R24). -/
theorem statusWord_writeOneToClear (s : State) (v : Word) :
    State.statusWord { s with status := s.status.writeOneToClear v } = s.statusWord &&& ~~~(v &&& 0x32) := by
  obtain ⟨b0, b1, b2, b3, b4, b5, hrest⟩ := statusWord_getLsbD s
  obtain ⟨c0, c1, c2, c3, c4, c5, hrest'⟩ := statusWord_getLsbD { s with status := s.status.writeOneToClear v }
  apply BitVec.eq_of_getLsbD_eq
  intro j hj
  rw [BitVec.getLsbD_and, statusMask_getLsbD, decide_eq_true hj, Bool.true_and]
  match j with
  | 0 => rw [b0, c0]; simp
  | 1 => rw [b1, c1]; simp [Status.writeOneToClear]
  | 2 => rw [b2, c2]; simp
  | 3 => rw [b3, c3]; simp
  | 4 => rw [b4, c4]; simp [Status.writeOneToClear]
  | 5 => rw [b5, c5]; simp [Status.writeOneToClear]
  | j + 6 => rw [hrest, hrest', Bool.false_and]

/-- Settles O17: the write replaces STATUS alone, bit by bit. -/
theorem statusWriteClears : Obligations.StatusWriteClears := by
  intro s v
  rw [hostWrite_status]
  exact ⟨statusWord_writeOneToClear s v, _, rfl, rfl, rfl⟩

/-- CTRL reads back as the two low bits of the word written (`10_state.md` R23). -/
theorem ctrlWord_ofWord (v : Word) : (Ctrl.ofWord v).toWord = v &&& 3 := by
  obtain ⟨hie, hext, hreserved⟩ := ctrlWord_getLsbD (Ctrl.ofWord v)
  apply BitVec.eq_of_getLsbD_eq
  intro j hj
  match j with
  | 0 => rw [hie]; simp [Ctrl.ofWord]
  | 1 => rw [hext]; simp [Ctrl.ofWord]
  | j + 2 =>
    have hlt : 3 < 2 ^ (j + 2) := by
      have := Nat.one_le_two_pow (n := j)
      rw [pow_add]
      omega
    have hthree : (3 : Word).getLsbD (j + 2) = false := Nat.testBit_lt_two_pow hlt
    rw [hreserved, BitVec.getLsbD_and, hthree, Bool.and_false]

/-- An idle core stores an ARG write (`10_state.md` R28). -/
theorem writeReg_arg_idle {s : State} (hidle : s.inflight = none) (i : Fin 8) (v : Word) :
    s.writeReg (.arg i) v = { s with args := s.args.set i v } := by
  simp [State.writeReg, hidle]

/-- Settles O18: each write replaces its own register alone, and the read after it takes that register. -/
theorem registerWritesStore : Obligations.RegisterWritesStore := by
  constructor
  · intro s v
    rw [hostWrite_ctrl]
    exact ⟨ctrlWord_ofWord v, _, rfl⟩
  · intro s v i o hidle ho
    have hlt : o.toNat < 0x1000 := by omega
    have ha : o.toNat % 4 = 0 := by omega
    rw [hostRead_register _ hlt ha, hostWrite_register s v hlt ha, regAt_arg ho, writeReg_arg_idle hidle]
    exact ⟨Prod.ext (Args.get_set_same _ _ _) rfl, fun j hj => Args.get_set_other _ _ _ _ hj, _, rfl⟩

/-! ### The interrupt level -/

/-- A completion sets DONE (`10_state.md` R38). -/
theorem complete_done (s : State) (d : Completion) : (s.complete d).status.done = true := by
  rcases State.complete_cases s d with ⟨o, -, heq⟩ | ⟨e, -, heq⟩ <;> rw [heq] <;> rfl

/-- Settles O19: irq is IE AND DONE (`10_state.md` R39), so each clause says what its event leaves of the two. -/
theorem interruptLevel : Obligations.InterruptLevel := by
  intro s
  refine ⟨?_, ?_, ?_, ?_, ?_, ?_, rfl, rfl⟩
  · obtain ⟨hie, -⟩ := ctrlWord_getLsbD s.ctrl
    obtain ⟨-, hdone, -⟩ := statusWord_getLsbD s
    exact congrArg₂ and hie.symm hdone.symm
  · intro i t ht
    rw [exec_commandRule] at ht
    obtain ⟨c, -, rfl⟩ := State.finish_next ht
    rw [State.irq, State.complete_ctrl, complete_done, Bool.and_true]
  · intro v hv
    rw [hostWrite_ctrl]
    simp only [State.irq, Ctrl.ofWord, hv, Bool.true_and]
  · intro v hv
    rw [hostWrite_ctrl]
    simp only [State.irq, Ctrl.ofWord, hv, Bool.false_and]
  · intro v hv
    rw [hostWrite_status]
    simp [State.irq, Status.writeOneToClear, hv]
  · intro v hidle
    rcases State.issue_cases s v with ⟨-, heq⟩ | ⟨hbusy, -⟩
    · rw [hostWrite_cmd, heq, State.irq, State.accept_status, Bool.and_false]
    · exact absurd hidle hbusy

/-! ### Byte lanes (`20_memory.md` R68) -/

/-- Lane i of a bus value has the weight 256^i. -/
theorem lanes_eq_sum (f : Nat → Byte) (n : Nat) :
    ((List.range n).map f).foldr (fun x acc => x.toNat + 256 * acc) 0 =
      ((List.range n).map fun i => (f i).toNat * 256 ^ i).sum := by
  induction n generalizing f with
  | zero => rfl
  | succ n ih =>
    have hweights : (fun i => (f (i + 1)).toNat * 256 ^ (i + 1)) = fun i => 256 * ((f (i + 1)).toNat * 256 ^ i) := by
      funext i
      ring
    rw [List.range_succ_eq_map, List.map_cons, List.map_map, List.foldr_cons, ih, List.map_cons, List.map_map,
      List.sum_cons, pow_zero, mul_one]
    simp only [Function.comp_def, Nat.succ_eq_add_one, hweights, List.sum_map_mul_left]

theorem lanes_lt (b : Bytes) : b.foldr (fun x acc => x.toNat + 256 * acc) 0 < 256 ^ b.length := by
  induction b with
  | nil => simp
  | cons x b ih =>
    have := x.isLt
    rw [List.foldr_cons, List.length_cons, pow_succ]
    omega

/-- The value of at most four lanes fits the bus. -/
theorem lanesToWord_toNat {b : Bytes} (h : b.length ≤ 4) :
    (lanesToWord b).toNat = b.foldr (fun x acc => x.toNat + 256 * acc) 0 := by
  have hfits : 256 ^ b.length ≤ 2 ^ 32 := Nat.pow_le_pow_right (n := 256) (by omega) h
  rw [lanesToWord, BitVec.toNat_ofNat, Nat.mod_eq_of_lt ((lanes_lt b).trans_le hfits)]

/-- Lane i of a bus value v is (v >> 8i) mod 256. -/
theorem wordToLanes_getElem (v : Word) (n i : Nat) (h : i < (wordToLanes v n).length) :
    ((wordToLanes v n)[i]).toNat = (v.toNat >>> (8 * i)) % 256 := by
  simp [wordToLanes, Nat.shiftRight_eq_div_pow, pow_mul]

theorem accessSize_bytes_le (size : AccessSize) : size.bytes ≤ 4 := by
  cases size <;> decide

/-- Settles O13: a performed DMEM access is MemRead or MemWrite of its lanes, and a register read is `readReg`. -/
theorem byteLanes : Obligations.ByteLanes := by
  refine ⟨?_, fun s o h ha => hostRead_register s h ha, ?_⟩
  · intro s size o d hidle ho hd
    have hp := placeOf_dmem ho
    have hok := dmemAccessOk_idle hidle hd
    simp only [hostRead_dmem hp hok, hostWrite_dmem _ hp hok]
    refine ⟨trivial, ?_, fun v => ⟨⟨_, rfl⟩, ?_, ?_⟩⟩
    · rw [lanesToWord_toNat (by simpa using accessSize_bytes_le size)]
      exact lanes_eq_sum (fun i => s.dmem.byte (d + i)) size.bytes
    · intro i hi
      rw [Memory.byte_write_inside _ _ _ _ (by simpa using hi)]
      exact wordToLanes_getElem v _ i _
    · intro a ha
      exact Memory.byte_write_outside _ _ _ _ (by simp only [wordToLanes_length]; omega)
  · intro s
    refine ⟨?_, ?_, ?_, ?_, ?_, ?_, ?_, ?_, ?_, ?_, ?_⟩ <;> exact hostRead_register s (by decide) (by decide)

end Sys2Proof.Proofs
end

section
/-! The step, event by event: command issue (`10_state.md` R37), the sequencer's move (R38), words that spell no command
(`30_encoding.md` R99), and progress (`70_reset_and_hazards.md` R352). -/

namespace Sys2Proof.Proofs

open Sys2Proof.Machine Sys2Proof.Claims

/-! ### The next event -/

/-- With no event to come the sequencer moves (log entry 4). -/
theorem step_nil {s : State} (h : s.turns = []) : step s = sequencerTurn s := by
  simp only [step, nextEvent, h]

theorem step_cons {s : State} {e : Turn} {rest : List Turn} (h : s.turns = e :: rest) :
    step s = takeTurn e { s with turns := rest } := by
  simp only [step, nextEvent, h]

/-- With a command in flight the sequencer's turn is its step (`10_state.md` R38). -/
theorem sequencerTurn_inflight {s : State} {c : InFlight} (hc : s.inflight = some c) :
    sequencerTurn s = sequencerStep c s := by
  simp only [sequencerTurn, hc]

/-- The sequencer moves with this command in flight when no event is left or its turn is next. -/
theorem step_sequencer {s : State} {c : InFlight} (hc : s.inflight = some c) :
    (s.turns = [] → step s = sequencerStep c s) ∧
      ∀ rest, s.turns = .completion :: rest → step s = sequencerStep c { s with turns := rest } :=
  ⟨fun h => (step_nil h).trans (sequencerTurn_inflight hc),
    fun rest h => (step_cons h).trans (sequencerTurn_inflight (s := { s with turns := rest }) hc)⟩

/-- Settles O4: the sequencer's step is `exec` of what the word decodes to. -/
theorem stepRunsDecodedCommand : Obligations.StepRunsDecodedCommand := by
  intro s c i hc hi _
  have hexec (s : State) : sequencerStep c s = exec i s := by simp only [sequencerStep, hi]
  obtain ⟨hnil, hturn⟩ := step_sequencer hc
  exact ⟨fun h => (hnil h).trans (hexec s), fun rest h => (hturn rest h).trans (hexec _)⟩

/-- Settles O12: the two branches of R37. -/
theorem commandIssue : Obligations.CommandIssue := by
  intro s w rest h
  rw [step_cons h, takeTurn, State.hostAccess, hostWrite_cmd]
  rcases State.issue_cases { s with turns := rest } w with ⟨hidle, heq⟩ | ⟨hbusy, heq⟩
  · exact ⟨fun hbusy => absurd hidle hbusy, fun _ => congrArg _ heq⟩
  · exact ⟨fun _ => congrArg _ heq, fun hidle => absurd hidle hbusy⟩

/-! ### Words that spell no command (`30_encoding.md` R99) -/

theorem fieldOpcode_toNat (w : Word) : (fieldOpcode w).toNat = w.toNat % 256 := by
  simp [fieldOpcode]

theorem fieldFlags_toNat (w : Word) : (fieldFlags w).toNat = w.toNat / 256 % 256 := by
  simp [fieldFlags, Nat.shiftRight_eq_div_pow]

theorem fieldRsvd_toNat (w : Word) : (fieldRsvd w).toNat = w.toNat / 2 ^ 16 := by
  have := w.isLt
  simp only [fieldRsvd, BitVec.extractLsb'_toNat, Nat.shiftRight_eq_div_pow]
  omega

/-- The command of an opcode has that opcode (`30_encoding.md` R94). -/
theorem opcode_of_commandOf {op : BitVec 8} {flag : Bool} {i : Instr} (h : commandOf op flag = some i) :
    op.toNat = i.opcode := by
  unfold commandOf at h
  split at h <;> cases h <;> assumption

/-- The opcodes of the table are the ones not reserved (`30_encoding.md` R94, R99). -/
theorem wordOpcodeDefined_of_opcode {w : Word} {i : Instr} (h : w.toNat % 256 = i.opcode) :
    wordOpcodeDefined w = true := by
  rw [wordOpcodeDefined, h]
  cases i <;> rfl

/-- FLAGS bit 0 belongs to the opcodes 0x01 and 0x04 (`30_encoding.md` R92). -/
theorem hasFlag_eq (i : Instr) : i.hasFlag = (i.opcode == 0x01 || i.opcode == 0x04) := by
  cases i <;> rfl

/-- A word decodes only if it spells a command. -/
theorem wordWellFormed_of_decode {w : Word} {i : Instr} (h : decode w = .ok i) : wordWellFormed w = true := by
  unfold decode at h
  split at h
  · cases h
  rename_i hrsvd
  split at h
  · cases h
  rename_i j hj
  have hop : w.toNat % 256 = j.opcode := fieldOpcode_toNat w ▸ opcode_of_commandOf hj
  have hreserved : wordReservedZero w = true := by
    rw [wordReservedZero, ← fieldRsvd_toNat, not_not.1 hrsvd]
    rfl
  have hflags : wordFlagsLegal w = true := by
    rw [wordFlagsLegal, hop, ← hasFlag_eq, ← fieldFlags_toNat]
    split at h
    · rename_i hflag
      split at h
      · cases h
      · rename_i hbits
        have hbits := congrArg BitVec.toNat (not_not.1 hbits)
        simp only [BitVec.toNat_ushiftRight, Nat.shiftRight_eq_div_pow, BitVec.ofNat_eq_ofNat,
          BitVec.toNat_ofNat] at hbits
        simp only [hflag, if_true, decide_eq_true_eq]
        omega
    · rename_i hflag
      split at h
      · cases h
      · rename_i hbits
        simp [hflag, not_not.1 hbits]
  rw [wordWellFormed, hreserved, wordOpcodeDefined_of_opcode hop, hflags]
  rfl

/-- Settles O5: the word does not decode, and the step is the error completion of ILLEGAL_CMD. -/
theorem illegalWordsComplete : Obligations.IllegalWordsComplete := by
  intro s c hc hill
  have hfail (s : State) : sequencerStep c s = .next (failed s 0x3003) := by
    unfold sequencerStep
    split
    · rename_i i hi
      rw [wordWellFormed_of_decode hi] at hill
      cases hill
    · rfl
  obtain ⟨hnil, hturn⟩ := step_sequencer hc
  exact ⟨fun h => (hnil h).trans (hfail s), fun rest h => (hturn rest h).trans (hfail _)⟩

/-! ### Progress (`70_reset_and_hazards.md` R352) -/

/-- The sequencer's turn leaves the core idle and the events to come alone, and completes a command in flight. -/
theorem sequencerTurn_next (s : State) : ∃ t, sequencerTurn s = .next t ∧ t.inflight = none ∧ t.turns = s.turns ∧
    (s.inflight ≠ none → t.status.done = true) := by
  rcases sequencerTurn_cases s with ⟨hidle, heq⟩ | ⟨c, i, hc, -, heq⟩ | ⟨c, e, -, -, heq⟩
  · exact ⟨s, heq, hidle, rfl, fun hbusy => absurd hidle hbusy⟩
  · obtain ⟨d, hd⟩ := exec_inflight i hc
    exact ⟨_, heq.trans hd, State.complete_inflight s d, State.complete_turns s d, fun _ => complete_done s d⟩
  · exact ⟨_, heq, rfl, rfl, fun _ => rfl⟩

/-- From s to t the events to come stay, and so does a command in flight. -/
def KeepsFlight (s t : State) : Prop := t.turns = s.turns ∧ (s.inflight ≠ none → t.inflight = s.inflight)

/-- A CMD write of a busy core leaves the command in flight (`10_state.md` R37). -/
theorem keepsFlight_issue (s : State) (w : Word) : KeepsFlight s (s.issue w) := by
  rcases State.issue_cases s w with ⟨hidle, heq⟩ | ⟨-, heq⟩ <;> rw [heq]
  · exact ⟨rfl, fun hbusy => absurd hidle hbusy⟩
  · exact ⟨rfl, fun _ => rfl⟩

theorem keepsFlight_writeReg (s : State) (r : Reg) (w : Word) : KeepsFlight s (s.writeReg r w) := by
  rcases State.writeReg_cases s r w with heq | ⟨-, heq⟩ | ⟨-, heq⟩ | ⟨-, heq⟩ | ⟨i, -, -, heq⟩ | ⟨i, -, -, heq⟩ <;>
    rw [heq]
  case inr.inr.inr.inl => exact keepsFlight_issue s w
  all_goals exact ⟨rfl, fun _ => rfl⟩

theorem keepsFlight_hostWrite (s : State) (size : AccessSize) (o : Offset) (v : Word) :
    KeepsFlight s (s.hostWrite size o v) := by
  rcases State.hostWrite_cases s size o v with heq | ⟨r, heq⟩ | heq | ⟨d, -, -, heq⟩ <;> rw [heq]
  case inr.inl => exact keepsFlight_writeReg s r v
  all_goals exact ⟨rfl, fun _ => rfl⟩

/-- No host access discards or completes a command in flight. -/
theorem keepsFlight_hostAccess (s : State) (a : HostAccess) : KeepsFlight s (s.hostAccess a) := by
  cases a with
  | read size o =>
    rw [State.hostAccess]
    rcases State.hostRead_cases s size o with heq | heq <;> rw [heq] <;> exact ⟨rfl, fun _ => rfl⟩
  | write size o v => exact keepsFlight_hostWrite s size o v

/-- Each event is taken off the list and answered with a next state (`60_exceptions.md` R300). -/
theorem step_takes_event {s : State} {e : Turn} {rest : List Turn} (h : s.turns = e :: rest) :
    ∃ t, step s = .next t ∧ t.turns = rest := by
  rw [step_cons h]
  cases e with
  | host a =>
    obtain ⟨hturns, -⟩ := keepsFlight_hostAccess { s with turns := rest } a
    exact ⟨_, rfl, hturns⟩
  | completion =>
    obtain ⟨t, ht, -, hturns, -⟩ := sequencerTurn_next { s with turns := rest }
    exact ⟨t, ht, hturns⟩
  | resetInput => exact ⟨_, rfl, rfl⟩
  | powerOn => exact ⟨_, rfl, rfl⟩

theorem run_zero (s : State) : Host.Core.run Sys2Proof.core 0 s = .next s := rfl

/-- A run begins with a step. -/
theorem core_run_succ {M : Host.Core} {s t : M.State} (h : M.step s = .next t) (k : Nat) :
    M.run (k + 1) s = M.run k t := by
  rw [Host.Core.run, h]

theorem run_succ {s t : State} (h : step s = .next t) (k : Nat) :
    Host.Core.run Sys2Proof.core (k + 1) s = Host.Core.run Sys2Proof.core k t :=
  core_run_succ (M := Sys2Proof.core) h k

/-- After the events to come the sequencer moves, and leaves the core idle. -/
theorem run_idle {turns : List Turn} {s : State} (h : s.turns = turns) :
    ∃ t : State, Host.Core.run Sys2Proof.core (turns.length + 1) s = .next t ∧ t.inflight = none ∧ t.turns = [] := by
  induction turns generalizing s with
  | nil =>
    obtain ⟨t, ht, hidle, hturns, -⟩ := sequencerTurn_next s
    exact ⟨t, run_succ ((step_nil h).trans ht) 0, hidle, hturns.trans h⟩
  | cons e rest ih =>
    obtain ⟨u, hu, hrest⟩ := step_takes_event h
    obtain ⟨t, ht, hidle, hturns⟩ := ih hrest
    exact ⟨t, (run_succ hu _).trans ht, hidle, hturns⟩

/-- The command c stays in flight for the first k steps from s and completes in the next one. -/
def CompletesAfter (k : Nat) (s : State) (c : InFlight) : Prop :=
  (∀ j ≤ k, ∃ u : State, Host.Core.run Sys2Proof.core j s = .next u ∧ u.inflight = some c) ∧
    ∃ t : State, Host.Core.run Sys2Proof.core (k + 1) s = .next t ∧ t.inflight = none ∧ t.status.done = true

theorem completesAfter_zero {s t : State} {c : InFlight} (hc : s.inflight = some c) (hs : step s = .next t)
    (hidle : t.inflight = none) (hdone : t.status.done = true) : CompletesAfter 0 s c := by
  refine ⟨fun j hj => ?_, t, run_succ hs 0, hidle, hdone⟩
  rw [Nat.le_zero.1 hj]
  exact ⟨s, run_zero s, hc⟩

theorem completesAfter_succ {s u : State} {c : InFlight} {k : Nat} (hc : s.inflight = some c) (hs : step s = .next u)
    (hu : CompletesAfter k u c) : CompletesAfter (k + 1) s c := by
  obtain ⟨hflight, t, ht, hidle, hdone⟩ := hu
  refine ⟨fun j hj => ?_, t, (run_succ hs _).trans ht, hidle, hdone⟩
  cases j with
  | zero => exact ⟨s, run_zero s, hc⟩
  | succ j =>
    obtain ⟨v, hv, hvc⟩ := hflight j (Nat.le_of_succ_le_succ hj)
    exact ⟨v, (run_succ hs j).trans hv, hvc⟩

/-- Without a reset among the events to come, the command in flight completes at the sequencer's first turn. -/
theorem completes_before_events_end {turns : List Turn} {s : State} {c : InFlight} (hc : s.inflight = some c)
    (h : s.turns = turns) (hreset : ∀ e ∈ turns, e ≠ .resetInput ∧ e ≠ .powerOn) :
    ∃ k ≤ turns.length, CompletesAfter k s c := by
  induction turns generalizing s with
  | nil =>
    obtain ⟨t, ht, hidle, -, hdone⟩ := sequencerTurn_next s
    exact ⟨0, le_rfl, completesAfter_zero hc ((step_nil h).trans ht) hidle (hdone (by simp [hc]))⟩
  | cons e rest ih =>
    obtain ⟨⟨hno, hno'⟩, hrest⟩ := List.forall_mem_cons.1 hreset
    have hstep := step_cons h
    cases e with
    | host a =>
      obtain ⟨hturns, hkeep⟩ := keepsFlight_hostAccess { s with turns := rest } a
      obtain ⟨k, hk, hdone⟩ := ih ((hkeep (by simp [hc])).trans hc) hturns hrest
      exact ⟨k + 1, Nat.succ_le_succ hk, completesAfter_succ hc hstep hdone⟩
    | completion =>
      obtain ⟨t, ht, hidle, -, hdone⟩ := sequencerTurn_next { s with turns := rest }
      exact ⟨0, Nat.zero_le _, completesAfter_zero hc (hstep.trans ht) hidle (hdone (by simp [hc]))⟩
    | resetInput => exact absurd rfl hno
    | powerOn => exact absurd rfl hno'

/-- Settles O7: induction on the events to come. -/
theorem coreGoesIdle : Obligations.CoreGoesIdle :=
  ⟨fun _ => run_idle rfl, fun _ _ hc hreset => completes_before_events_end hc rfl hreset⟩

end Sys2Proof.Proofs
end

section
/-! Dropped host accesses (`20_memory.md` R64 to R67), and the step whose event is a host access (`20_memory.md` R63,
R76). -/

namespace Sys2Proof.Proofs

open Sys2Proof.Machine Sys2Proof.Claims

/-! ### Where an access is dropped -/

/-- `20_memory.md` R64, R65 and R67 drop the access: a register access that is not four aligned bytes, or a DMEM access
that is misaligned or made while BUSY = 1. -/
def Dropped (s : State) (size : AccessSize) (o : Offset) : Prop :=
  (o.toNat < 0x1000 ∧ (size.bytes ≠ 4 ∨ o.toNat % 4 ≠ 0)) ∨
    (0x10000 ≤ o.toNat ∧ (o.toNat % size.bytes ≠ 0 ∨ s.inflight ≠ none))

theorem registerAccessOk_iff (size : AccessSize) (d : Nat) :
    registerAccessOk size d = true ↔ size.bytes = 4 ∧ d % 4 = 0 := by
  simp [registerAccessOk]

theorem dmemAccessOk_iff (s : State) (size : AccessSize) (d : Nat) :
    s.dmemAccessOk size d = true ↔ d % size.bytes = 0 ∧ s.inflight = none := by
  simp [State.dmemAccessOk]

/-- Four bytes are a word access. -/
theorem accessSize_eq_word {size : AccessSize} (h : size.bytes = 4) : size = .word := by
  cases size <;> simp_all [AccessSize.bytes]

theorem placeOf_dmem_of_le {o : Offset} (h : 0x10000 ≤ o.toNat) : placeOf o = .dmem (o.toNat - 0x10000) :=
  placeOf_dmem (by omega)

/-- DMEM begins at a multiple of every access size, so a window offset is aligned exactly when its DMEM offset is. -/
theorem dmem_offset_aligned (size : AccessSize) {o : Nat} (h : 0x10000 ≤ o) :
    (o - 0x10000) % size.bytes = o % size.bytes := by
  cases size <;> simp only [AccessSize.bytes] <;> omega

/-- A dropped access is neither a performed register access nor a performed DMEM access. -/
theorem dropped_place {s : State} {size : AccessSize} {o : Offset} (h : Dropped s size o) :
    (∃ r, placeOf o = .register r ∧ registerAccessOk size r = false) ∨
      ∃ d, placeOf o = .dmem d ∧ s.dmemAccessOk size d = false := by
  rcases h with ⟨hreg, hbad⟩ | ⟨hdmem, hbad⟩
  · refine .inl ⟨_, placeOf_register hreg, ?_⟩
    rw [Bool.eq_false_iff, Ne, registerAccessOk_iff]
    omega
  · refine .inr ⟨_, placeOf_dmem_of_le hdmem, ?_⟩
    rw [Bool.eq_false_iff, Ne, dmemAccessOk_iff, dmem_offset_aligned size hdmem]
    tauto

/-- A dropped read returns 0 and sets ACCESS_ERR. -/
theorem hostRead_of_dropped {s : State} {size : AccessSize} {o : Offset} (h : Dropped s size o) :
    s.hostRead size o = (0, s.dropAccess) := by
  rcases dropped_place h with ⟨r, hp, hbad⟩ | ⟨d, hp, hbad⟩ <;>
    simp only [State.hostRead, hp, hbad, Bool.false_eq_true, if_false]

/-- A dropped write sets ACCESS_ERR and changes nothing else. -/
theorem hostWrite_of_dropped {s : State} {size : AccessSize} {o : Offset} (v : Word) (h : Dropped s size o) :
    s.hostWrite size o v = s.dropAccess := by
  rcases dropped_place h with ⟨r, hp, hbad⟩ | ⟨d, hp, hbad⟩ <;>
    simp only [State.hostWrite, hp, hbad, Bool.false_eq_true, if_false]

/-- A read that is not dropped changes nothing (`20_memory.md` R75). -/
theorem hostRead_of_not_dropped {s : State} {size : AccessSize} {o : Offset} (h : ¬ Dropped s size o) :
    (s.hostRead size o).2 = s := by
  obtain ⟨hreg, hdmem⟩ := not_or.1 h
  rcases Nat.lt_or_ge o.toNat 0x1000 with hlow | hlow
  · obtain rfl : size = .word := accessSize_eq_word (by omega)
    rw [hostRead_register s hlow (by omega)]
  rcases Nat.lt_or_ge o.toNat 0x10000 with hhigh | hhigh
  · rw [hostRead_unmapped s size (placeOf_unmapped hlow hhigh)]
  · have hok : s.dmemAccessOk size (o.toNat - 0x10000) = true := by
      rw [dmemAccessOk_iff, dmem_offset_aligned size hhigh]
      tauto
    rw [hostRead_dmem (placeOf_dmem_of_le hhigh) hok]

/-- The first dropped read leaves the core in a state that drops the same read again. -/
theorem dropped_dropAccess {s : State} {size : AccessSize} {o : Offset} (h : Dropped s size o) :
    Dropped s.dropAccess size o := h

/-- Settles O20: a dropped read is dropped again with the same 0, and any other read leaves the state as it was. -/
theorem hostReadEffects : Obligations.HostReadEffects := by
  intro s size o
  refine ⟨fun h => congrArg Prod.snd (hostRead_of_dropped h), fun h => hostRead_of_not_dropped h, ?_⟩
  by_cases h : Dropped s size o
  · rw [hostRead_of_dropped h, hostRead_of_dropped (dropped_dropAccess h)]
  · rw [hostRead_of_not_dropped h]

/-- Settles O15: the two ways to be misaligned are dropped, and the accesses left are the performed ones. -/
theorem misalignedAccesses : Obligations.MisalignedAccesses := by
  intro s size o v
  have hdrop (h : Dropped s size o) : s.hostRead size o = (0, s.dropAccess) ∧ s.hostWrite size o v = s.dropAccess :=
    ⟨hostRead_of_dropped h, hostWrite_of_dropped v h⟩
  refine ⟨fun hreg hbad => hdrop (.inl ⟨hreg, hbad⟩), ?_, fun hdmem hbad => hdrop (.inr ⟨hdmem, .inl hbad⟩), ?_⟩
  · intro hreg hsize ha
    obtain rfl := accessSize_eq_word hsize
    exact ⟨hostRead_register s hreg ha, hostWrite_register s v hreg ha⟩
  · intro hdmem ha hidle
    have hp := placeOf_dmem_of_le hdmem
    have hok := dmemAccessOk_idle hidle ((dmem_offset_aligned size hdmem).trans ha)
    exact ⟨hostRead_dmem hp hok, hostWrite_dmem v hp hok⟩

/-- A busy core drops an ARG write (`20_memory.md` R66). -/
theorem writeReg_arg_busy {s : State} (hbusy : s.inflight ≠ none) (i : Fin 8) (v : Word) :
    s.writeReg (.arg i) v = s.dropAccess := by
  simp [State.writeReg, Option.isSome_iff_ne_none, hbusy]

/-- Settles O14: BUSY drops every DMEM access at the port and every ARG write at the register, and CMD answers with
CMD_OVERRUN. -/
theorem busyDropsAccesses : Obligations.BusyDropsAccesses := by
  intro s hbusy
  refine ⟨?_, ?_, fun o ha hreg => hostRead_register s hreg ha, ?_⟩
  · intro size o v hdmem
    have hdrop : Dropped s size o := .inr ⟨hdmem, .inr hbusy⟩
    exact ⟨hostRead_of_dropped hdrop, hostWrite_of_dropped v hdrop⟩
  · intro o v ha hlow hhigh
    have harg : regAt o.toNat = .arg ⟨(o.toNat - 0x020) / 4, by omega⟩ := regAt_arg (by simp only; omega)
    rw [hostWrite_register s v (by omega) ha, harg]
    exact writeReg_arg_busy hbusy _ v
  · intro v
    refine ⟨hostWrite_ctrl s v, hostWrite_status s v, ?_⟩
    rcases State.issue_cases s v with ⟨hidle, -⟩ | ⟨-, heq⟩
    · exact absurd hidle hbusy
    · exact (hostWrite_cmd s v).trans heq

/-! ### The step of a host access -/

theorem dmemAccessOk_turns (s : State) (rest : List Turn) (size : AccessSize) (d : Nat) :
    State.dmemAccessOk { s with turns := rest } size d = s.dmemAccessOk size d := rfl

/-- A host read neither looks at the events to come nor changes them (log entry 4). -/
theorem hostRead_turns (s : State) (rest : List Turn) (size : AccessSize) (o : Offset) :
    State.hostRead { s with turns := rest } size o =
      ((s.hostRead size o).1, { (s.hostRead size o).2 with turns := rest }) := by
  unfold State.hostRead
  cases placeOf o with
  | register r =>
    dsimp only
    split
    · cases regAt r <;> rfl
    · rfl
  | dmem d => cases hok : s.dmemAccessOk size d <;> simp [dmemAccessOk_turns, hok, State.dropAccess]
  | unmapped => rfl

theorem issue_turns (s : State) (rest : List Turn) (w : Word) :
    State.issue { s with turns := rest } w = { s.issue w with turns := rest } := by
  cases hbusy : s.inflight <;> simp [State.issue, State.accept, hbusy]

theorem writeReg_turns (s : State) (rest : List Turn) (r : Reg) (w : Word) :
    State.writeReg { s with turns := rest } r w = { s.writeReg r w with turns := rest } := by
  cases r with
  | cmd => exact issue_turns s rest w
  | arg i => cases hbusy : s.inflight <;> simp [State.writeReg, State.dropAccess, hbusy]
  | _ => rfl

/-- A host write neither looks at the events to come nor changes them (log entry 4). -/
theorem hostWrite_turns (s : State) (rest : List Turn) (size : AccessSize) (o : Offset) (v : Word) :
    State.hostWrite { s with turns := rest } size o v = { s.hostWrite size o v with turns := rest } := by
  unfold State.hostWrite
  cases placeOf o with
  | register r =>
    dsimp only
    split
    · exact writeReg_turns s rest (regAt r) v
    · rfl
  | dmem d => cases hok : s.dmemAccessOk size d <;> simp [dmemAccessOk_turns, hok, State.dropAccess]
  | unmapped => rfl

/-- Settles O60: the step takes the access off the list, to which no access is sensitive. -/
theorem stepTakesHostAccess : Obligations.StepTakesHostAccess := by
  intro s rest size o
  constructor
  · intro h
    rw [step_cons h, takeTurn, State.hostAccess, hostRead_turns]
  · intro v h
    rw [step_cons h, takeTurn, State.hostAccess, hostWrite_turns]

end Sys2Proof.Proofs
end

section
/-! What a completion leaves alone: the frame of the commands (`20_memory.md` R70; `60_exceptions.md` R304, R305), and
that no command reads outside its input regions. -/

namespace Sys2Proof.Proofs

open Sys2Proof.Machine Sys2Proof.Claims

/-! ### Frames -/

/-- A completion is that of the command in flight: a success that writes its output region, or an error. -/
theorem exec_next_cases_of_inflight {i : Instr} {s t : State} {c : InFlight} (hc : s.inflight = some c)
    (h : exec i s = .next t) :
    (∃ o, (commandRule i s.rngDraws c s.dmem).result = .ok o ∧ Writes i c o ∧
        t = { s.completeOk o with rngDraws := s.rngDraws + (commandRule i s.rngDraws c s.dmem).draws }) ∨
      ∃ e, (commandRule i s.rngDraws c s.dmem).result = .error e ∧
        t = { s.completeError e with rngDraws := s.rngDraws + (commandRule i s.rngDraws c s.dmem).draws } := by
  obtain ⟨c', hc', hcases⟩ := exec_next_cases h
  obtain rfl : c = c' := Option.some_inj.1 (hc.symm.trans hc')
  exact hcases

/-- What no completion changes, and what every one sets: CTRL, CMD_LAST, ARG, CMD_OVERRUN, ACCESS_ERR, what the host
has read and the events to come stay; the core is idle with DONE = 1 (`10_state.md` R38). -/
theorem exec_keeps_registers {i : Instr} {s t : State} (h : exec i s = .next t) :
    t.ctrl = s.ctrl ∧ t.cmdLast = s.cmdLast ∧ t.args = s.args ∧ t.readData = s.readData ∧ t.turns = s.turns ∧
      t.status.cmdOverrun = s.status.cmdOverrun ∧ t.status.accessErr = s.status.accessErr ∧
      t.inflight = none ∧ t.status.done = true := by
  obtain ⟨c, -, ⟨o, -, -, rfl⟩ | ⟨e, -, rfl⟩⟩ := exec_next_cases h <;>
    exact ⟨rfl, rfl, rfl, rfl, rfl, rfl, rfl, rfl, rfl⟩

/-- What a completion leaves in DMEM: the RESULT_LEN bytes at dst may change, and no others (`20_memory.md` R70). -/
theorem exec_keeps_outside {i : Instr} {s t : State} {c : InFlight} {dst : Word} (hc : s.inflight = some c)
    (hd : destination i c.args = some dst) (h : exec i s = .next t) (a : Nat)
    (ha : ¬ (dst.toNat ≤ a ∧ a < dst.toNat + t.resultLen.toNat)) : t.dmem.byte a = s.dmem.byte a := by
  obtain ⟨o, -, hw, rfl⟩ | ⟨e, -, rfl⟩ := exec_next_cases_of_inflight hc h
  · have hlen := writes_resultLen_toNat hw
    obtain ⟨hnone, -⟩ | ⟨dst', hd', hdst, -⟩ := hw
    · simp [hd] at hnone
    · obtain rfl : dst = dst' := Option.some_inj.1 (hd.symm.trans hd')
      simp only [State.completeOk_resultLen, hlen] at ha
      exact Memory.byte_write_outside _ _ _ _ (by omega)
  · rfl

/-- Settles O22: VALID is set only by the commands without an output region. -/
theorem storingFrame : Obligations.StoringFrame := by
  intro i s t c dst hc hd h
  have hvalid : t.status.valid = false := by
    obtain ⟨o, -, ⟨hnone, -⟩ | ⟨-, -, -, hvalid, -⟩, rfl⟩ | ⟨e, -, rfl⟩ := exec_next_cases_of_inflight hc h
    · simp [hd] at hnone
    · exact hvalid
    · rfl
  obtain ⟨hctrl, hcmd, hargs, hread, hturns, hoverrun, haccess, hidle, hdone⟩ := exec_keeps_registers h
  exact ⟨exec_keeps_outside hc hd h, hctrl, hcmd, hargs, hread, hturns, hoverrun, haccess, hidle, hdone, hvalid⟩

/-- Only the three commands of `70_reset_and_hazards.md` R348 draw. -/
theorem commandRule_draws {i : Instr} (h : mayDraw i = false) (n : Nat) (c : InFlight) (m : Memory) :
    (commandRule i n c m).draws = 0 := by
  cases i <;> simp [mayDraw, commandRule] at h ⊢

/-- A command without an output region draws nothing. -/
theorem mayDraw_of_destination_none {i : Instr} {A : Args} (h : destination i A = none) : mayDraw i = false := by
  cases i <;> simp [destination, mayDraw] at h ⊢

/-- Settles O23: a success of these commands writes no bytes, and VALID comes with ERR = 0. -/
theorem verifyFrame : Obligations.VerifyFrame := by
  intro i s t c hc hd h
  have hdraws := commandRule_draws (mayDraw_of_destination_none hd) s.rngDraws c s.dmem
  have hstore : (∀ a, t.dmem.byte a = s.dmem.byte a) ∧ t.resultLen = 0 ∧ t.rngDraws = s.rngDraws ∧
      (t.status.valid = true → t.status.err = false) := by
    obtain ⟨o, -, ⟨-, hbytes, -⟩ | ⟨dst, hsome, -⟩, rfl⟩ | ⟨e, -, rfl⟩ := exec_next_cases_of_inflight hc h
    · simp [hbytes, hdraws]
    · simp [hd] at hsome
    · simp [hdraws]
  obtain ⟨hmem, hlen, hrng, hvalid⟩ := hstore
  obtain ⟨hctrl, hcmd, hargs, hread, hturns, hoverrun, haccess, hidle, hdone⟩ := exec_keeps_registers h
  exact ⟨hmem, hlen, hrng, hctrl, hcmd, hargs, hread, hturns, hoverrun, haccess, hidle, hdone, hvalid⟩

/-- Settles O24: a success writes apart from every input region (`20_memory.md` R72), an error writes nothing. -/
theorem inputsAreKept : Obligations.InputsAreKept := by
  intro i s t c hc h r hr
  obtain ⟨o, -, ⟨-, hbytes, -⟩ | ⟨dst, -, hdst, -, -, -, hapart⟩, rfl⟩ | ⟨e, -, rfl⟩ :=
    exec_next_cases_of_inflight hc h
  · simp [hbytes]
  · have hno := hapart r hr
    simp only [State.completeOk_dmem, hdst]
    by_cases hempty : o.bytes = []
    · rw [hempty, Memory.write_nil]
    · have hpos := List.length_pos_of_ne_nil hempty
      exact Memory.read_write_outside _ _ _ _ _ (by omega)
  · rfl

end Sys2Proof.Proofs
end

section
/-! A command reads no byte of DMEM outside its input regions (`20_memory.md` R70; `30_encoding.md` R95). -/

namespace Sys2Proof.Proofs

open Sys2Proof.Machine Sys2Proof.Claims

/-- A rule reads of DMEM only the input regions of its command, the salt or nonce region among them where X = 1. -/
theorem commandRule_memory_congr {i : Instr} {c : InFlight} {m m' : Memory} (n : Nat)
    (h : ∀ r ∈ inputs i c.args c.extRand, m'.read r.1.toNat r.2 = m.read r.1.toNat r.2) :
    commandRule i n c m' = commandRule i n c m := by
  cases i
  case emsaPssEncode | ps256Sign | es256Sign =>
    cases hX : c.extRand <;> simp [hX, inputs] at h <;>
      simp [commandRule, runEmsaPssEncode, runPs256Sign, runEs256Sign, Memory.fetchInt, Memory.fetch, region, regionOf,
        ps256SaltLen, hX, h]
  all_goals
    simp only [inputs, List.forall_mem_cons, List.not_mem_nil, false_imp_iff, implies_true, and_true, kLen] at h
    simp only [commandRule, runSha256, runHmacSha256, runHmacVerify, runB64uEncode, runB64uDecode, runEmsaPkcs1Encode,
      runMgf1, runEmsaPssVerify, runI2osp, runRsasp1, runRsavp1, runRsaPrimitive, runRs256Sign, runRs256Verify,
      runPs256Verify, runEcDouble, runEcAdd, runEcScalarMul, runEcOnCurve, runEs256Verify, Memory.fetchInt,
      Memory.fetch, region, regionOf, h]
    rfl

/-- With a command in flight, the meaning of a command is the completion with its rule (`10_state.md` R38). -/
theorem exec_eq_complete (i : Instr) {s : State} {c : InFlight} (hc : s.inflight = some c) :
    exec i s = .next (s.complete (commandRule i s.rngDraws c s.dmem)) := by
  rw [exec_commandRule, State.finish_inflight s _ hc]

/-- A completion leaves the record and the draws that its end determines, whatever DMEM holds. -/
theorem complete_record_memory (s : State) (m : Memory) (d : Completion) :
    (State.complete { s with dmem := m } d).status = (s.complete d).status ∧
      (State.complete { s with dmem := m } d).errcode = (s.complete d).errcode ∧
      (State.complete { s with dmem := m } d).resultLen = (s.complete d).resultLen ∧
      (State.complete { s with dmem := m } d).rngDraws = (s.complete d).rngDraws := by
  rcases d with ⟨e | o, n⟩ <;> exact ⟨rfl, rfl, rfl, rfl⟩

/-- The RESULT_LEN bytes at dst after a completion are the bytes a success wrote, and none after an error. -/
theorem complete_output {i : Instr} {s : State} {c : InFlight} {m : Memory} {dst : Word} (n : Nat)
    (hd : destination i c.args = some dst) :
    (s.complete (commandRule i n c m)).dmem.read dst.toNat (s.complete (commandRule i n c m)).resultLen.toNat =
      match (commandRule i n c m).result with
      | .ok o => o.bytes
      | .error _ => [] := by
  obtain ⟨o, ho, heq⟩ | ⟨e, he, heq⟩ := State.complete_cases s (commandRule i n c m)
  · have hw := commandRule_ok _ _ _ _ _ ho
    have hlen := writes_resultLen_toNat hw
    obtain ⟨hnone, -⟩ | ⟨dst', hd', hdst, -⟩ := hw
    · simp [hd] at hnone
    · obtain rfl : dst = dst' := Option.some_inj.1 (hd.symm.trans hd')
      rw [heq, ho]
      simp only [State.completeOk_dmem, State.completeOk_resultLen, hlen, hdst, Memory.read_write_same]
  · rw [heq, he]
    rfl

/-- Settles O27: the rule ends in the same way, and an end fixes the record and the output bytes. -/
theorem readsOnlyItsInputs : Obligations.ReadsOnlyItsInputs := by
  intro i s t c m hc hm ht
  rw [exec_eq_complete i hc, Host.Outcome.next.injEq] at ht
  have hexec : exec i { s with dmem := m } = .next (State.complete { s with dmem := m } (commandRule i s.rngDraws c m)) :=
    exec_eq_complete (s := { s with dmem := m }) i hc
  rw [commandRule_memory_congr _ hm] at hexec
  obtain ⟨hstatus, hcode, hlen, hdraws⟩ := complete_record_memory s m (commandRule i s.rngDraws c s.dmem)
  subst ht
  refine ⟨_, hexec, hstatus, hcode, hlen, hdraws, fun dst hd => ?_⟩
  rw [complete_output _ hd, ← hlen, complete_output _ hd]

end Sys2Proof.Proofs
end

section
/-! The operand checks of every command before its own ones (`60_exceptions.md` R306, steps 2 to 4): the RSA key length,
the bounds, the overlap. -/

namespace Sys2Proof.Proofs

open Sys2Proof.Machine Sys2Proof.Claims

/-! ### The checks of the model and of the operand table -/

/-- Key check 1 of `44_rsa_engine.md` R200. -/
theorem bitLengthOk_iff (A : Args) : bitLengthOk A.a0.toNat = true ↔ KeyLengthOk A := by
  simp only [bitLengthOk, Bool.and_eq_true, beq_iff_eq, decide_eq_true_eq, and_assoc]
  rfl

/-- The key check passes, or the command takes no key. -/
def KeyPasses (i : Instr) (A : Args) : Prop := takesRsaKey i = true → KeyLengthOk A

/-- The regions that the ARG values give a command, its inputs and then its output (`30_encoding.md` R95). -/
def operandRegions (i : Instr) (A : Args) (x : Bool) : List Region :=
  (inputs i A x ++ (output i A).toList).map operandRegion

/-- The output region that the ARG values give overlaps an input region (`20_memory.md` R72). -/
def outputOverlaps (i : Instr) (A : Args) (x : Bool) : Bool :=
  (output i A).any fun o => (operandRegion o).overlapsAny ((inputs i A x).map operandRegion)

theorem regionsInside_iff (i : Instr) (A : Args) (x : Bool) :
    RegionsInside i A x ↔ KeyPasses i A ∧ allInBounds (operandRegions i A x) = true := by
  refine ⟨fun h => ⟨h.1, allInBounds_operands h⟩, fun ⟨hkey, hin⟩ => ⟨hkey, fun r hr => ?_, fun o ho => ?_⟩⟩ <;>
    rw [operandRegions, allInBounds_iff, List.forall_mem_map] at hin
  · exact hin r (List.mem_append_left _ hr)
  · exact hin o (List.mem_append_right _ (Option.mem_toList.2 ho))

theorem outputApart_of_not_overlaps {i : Instr} {A : Args} {x : Bool} (h : outputOverlaps i A x = false) :
    OutputApart i A x := by
  intro o ho r hr hov
  rw [outputOverlaps, ho, Option.any_some, Bool.eq_false_iff, Ne, overlapsAny_iff] at h
  exact h ⟨operandRegion r, List.mem_map_of_mem hr, hov⟩

/-- The bounds check does not depend on which region comes first. -/
theorem allInBounds_concat (rs : List Region) (r : Region) : allInBounds (rs ++ [r]) = allInBounds (r :: rs) := by
  rw [Bool.eq_iff_iff, allInBounds_iff, allInBounds_iff]
  simp [or_comm]

/-- No ARG value is a mask length that MGF1 refuses (`43_rsa_padding.md` R173). -/
theorem mgf1_len_le (c : InFlight) : ¬ (region c.args.a3 c.args.a2).len > 2 ^ 37 := by
  simp only [region]
  omega

/-! ### The checks of a command with a salt or nonce region

EMSA_PSS_ENCODE, PS256_SIGN and ES256_SIGN take the last input region only when X = 1, and their rules list the output
region first. -/

theorem map_operandRegion_external (x : Bool) (l : List (Word × Nat)) (e : Word × Nat) :
    (l ++ if x then [e] else []).map operandRegion = l.map operandRegion ++ whenExternal x (operandRegion e) := by
  cases x <;> simp [whenExternal]

theorem allInBounds_external {x b : Bool} {l : List (Word × Nat)} {e o : Word × Nat}
    (h : allInBounds (((l ++ if x then [e] else []) ++ [o]).map operandRegion) = b) :
    allInBounds (operandRegion o :: (l.map operandRegion ++ whenExternal x (operandRegion e))) = b := by
  rwa [List.map_append, map_operandRegion_external, List.map_singleton, allInBounds_concat] at h

theorem overlapsAny_external {x b : Bool} {l : List (Word × Nat)} {e : Word × Nat} {o : Region}
    (h : o.overlapsAny ((l ++ if x then [e] else []).map operandRegion) = b) :
    o.overlapsAny (l.map operandRegion ++ whenExternal x (operandRegion e)) = b := by
  rwa [map_operandRegion_external] at h

/-! ### The rules make the checks in order -/

/-- A rule ends at the first check that fails. -/
theorem check_fails {α : Type} {b : Bool} {x y : α} (h : b = false) : (if !b then x else y) = x := by
  simp [h]

/-- A rule goes on past a check that passes. -/
theorem check_passes {α : Type} {b : Bool} {x y : α} (h : b = true) : (if !b then x else y) = y := by
  simp [h]

/-- The key check is the first one of a command that takes an RSA key (`60_exceptions.md` R306, step 2). -/
theorem commandRule_badKey {i : Instr} {c : InFlight} (n : Nat) (m : Memory) (hi : takesRsaKey i = true)
    (hkey : bitLengthOk c.args.a0.toNat = false) : commandRule i n c m = .noDraw (.error .badKey) := by
  cases i
  case rsasp1 | rsavp1 | rs256Sign | rs256Verify | ps256Verify => exact congrArg Completion.noDraw (check_fails hkey)
  case ps256Sign => exact check_fails hkey
  all_goals cases hi

/-- The bounds check is the next one (`60_exceptions.md` R306, step 3). -/
theorem commandRule_outOfBounds {i : Instr} {c : InFlight} (n : Nat) (m : Memory)
    (hkey : takesRsaKey i = true → bitLengthOk c.args.a0.toNat = true)
    (hout : allInBounds (operandRegions i c.args c.extRand) = false) :
    commandRule i n c m = .noDraw (.error .outOfBounds) := by
  cases i
  case mgf1 => exact congrArg Completion.noDraw ((if_neg (mgf1_len_le c)).trans (check_fails hout))
  case rsasp1 | rsavp1 | rs256Sign | rs256Verify | ps256Verify =>
    exact congrArg Completion.noDraw ((check_passes (hkey rfl)).trans (check_fails hout))
  case ps256Sign =>
    have hout := allInBounds_external hout
    exact (check_passes (hkey rfl)).trans (check_fails hout)
  case emsaPssEncode | es256Sign =>
    have hout := allInBounds_external hout
    exact check_fails hout
  case b64uDecode =>
    have hsrc : (region c.args.a0 c.args.a1).inBounds = false := by
      rwa [← Bool.and_true (Region.inBounds _)]
    exact congrArg Completion.noDraw (check_fails hsrc)
  all_goals exact congrArg Completion.noDraw (check_fails hout)

/-- The overlap check comes after it (`60_exceptions.md` R306, step 4). -/
theorem commandRule_overlap {i : Instr} {c : InFlight} (n : Nat) (m : Memory)
    (hkey : takesRsaKey i = true → bitLengthOk c.args.a0.toNat = true)
    (hin : allInBounds (operandRegions i c.args c.extRand) = true)
    (hov : outputOverlaps i c.args c.extRand = true) : commandRule i n c m = .noDraw (.error .overlap) := by
  cases i
  case mgf1 =>
    exact congrArg Completion.noDraw ((if_neg (mgf1_len_le c)).trans ((check_passes hin).trans (if_pos hov)))
  case rsasp1 | rsavp1 | rs256Sign =>
    exact congrArg Completion.noDraw ((check_passes (hkey rfl)).trans ((check_passes hin).trans (if_pos hov)))
  case ps256Sign =>
    have hin := allInBounds_external hin
    have hov := overlapsAny_external hov
    exact (check_passes (hkey rfl)).trans ((check_passes hin).trans (if_pos hov))
  case emsaPssEncode | es256Sign =>
    have hin := allInBounds_external hin
    have hov := overlapsAny_external hov
    exact (check_passes hin).trans (if_pos hov)
  case hmacVerify | b64uDecode | emsaPssVerify | rs256Verify | ps256Verify | ecOnCurve | es256Verify => cases hov
  all_goals exact congrArg Completion.noDraw ((check_passes hin).trans (if_pos hov))

/-- Settles O30: each check of the operand table is the model's check of the same regions, and a rule ends at the first
one that fails. -/
theorem operandChecks : Obligations.OperandChecks := by
  intro i s c hc
  have hbits : KeyPasses i c.args → takesRsaKey i = true → bitLengthOk c.args.a0.toNat = true :=
    fun hkey hi => (bitLengthOk_iff c.args).2 (hkey hi)
  refine ⟨fun hi hkey => ?_, fun hkey hout => ?_, fun hinside hapart => ?_⟩
  · have hbad : bitLengthOk c.args.a0.toNat = false := Bool.eq_false_iff.2 (mt (bitLengthOk_iff c.args).1 hkey)
    exact exec_eq_failed (e := .badKey) hc (commandRule_badKey _ _ hi hbad)
  · have hbounds : allInBounds (operandRegions i c.args c.extRand) = false :=
      Bool.eq_false_iff.2 fun hin => hout ((regionsInside_iff _ _ _).2 ⟨hkey, hin⟩)
    exact exec_eq_failed (e := .outOfBounds) hc (commandRule_outOfBounds _ _ (hbits hkey) hbounds)
  · obtain ⟨hkey, hbounds⟩ := (regionsInside_iff _ _ _).1 hinside
    have hov : outputOverlaps i c.args c.extRand = true :=
      Bool.eq_true_of_not_eq_false (mt outputApart_of_not_overlaps hapart)
    exact exec_eq_failed (e := .overlap) hc (commandRule_overlap _ _ (hbits hkey) hbounds hov)

end Sys2Proof.Proofs
end

section
/-! Command words: the decoder check by check on the word's value (`30_encoding.md` R98), and its inverse, the encoder
(R94). -/

namespace Sys2Proof.Proofs

/-! ### The fields and the table -/

/-- The RSVD check of a word on its value (`30_encoding.md` R93). -/
theorem wordReservedZero_iff (w : Word) : wordReservedZero w = true ↔ fieldRsvd w = 0 := by
  rw [wordReservedZero, ← fieldRsvd_toNat, beq_iff_eq, BitVec.toNat_eq]
  rfl

/-- A word that passes the RSVD check has 16 bits. -/
theorem toNat_lt_of_wordReservedZero {w : Word} (h : wordReservedZero w = true) : w.toNat < 65536 := by
  rw [wordReservedZero, beq_iff_eq] at h
  omega

/-- FLAGS bit 0 is bit 8 of the word (`30_encoding.md` R92). -/
theorem fieldFlags_bit0_toNat (w : Word) : ((fieldFlags w).getLsbD 0).toNat = w.toNat / 256 % 2 := by
  rw [BitVec.getLsbD, Nat.toNat_testBit, fieldFlags_toNat, pow_zero, Nat.div_one, Nat.mod_mod_of_dvd _ (by decide)]

/-- The FLAGS of the table's command: its bit 0 for a command that reads it (`30_encoding.md` R92). -/
theorem flags_of_commandOf {op : BitVec 8} {flag : Bool} {i : Instr} (h : commandOf op flag = some i) :
    i.flags = if i.hasFlag then flag.toNat else 0 := by
  unfold commandOf at h
  split at h <;> cases h <;> rfl

/-- The table's command for the word. -/
def WordCommand (w : Word) (i : Instr) : Prop := commandOf (fieldOpcode w) ((fieldFlags w).getLsbD 0) = some i

theorem WordCommand.opcode_eq {w : Word} {i : Instr} (h : WordCommand w i) : i.opcode = w.toNat % 256 :=
  fieldOpcode_toNat w ▸ (opcode_of_commandOf h).symm

theorem WordCommand.flags_eq {w : Word} {i : Instr} (h : WordCommand w i) :
    i.flags = if i.hasFlag then w.toNat / 256 % 2 else 0 :=
  fieldFlags_bit0_toNat w ▸ flags_of_commandOf h

/-- Every opcode that is not reserved is in the table (`30_encoding.md` R94, R99). -/
theorem exists_wordCommand {w : Word} (h : wordOpcodeDefined w = true) : ∃ i, WordCommand w i := by
  rw [wordOpcodeDefined, ← fieldOpcode_toNat] at h
  unfold WordCommand commandOf
  split
  any_goals exact ⟨_, rfl⟩
  next =>
    simp only [imp_false, Bool.not_eq_true', Bool.or_eq_false_iff, beq_eq_false_iff_ne, Bool.and_eq_false_iff,
      decide_eq_false_iff_not] at *
    omega

/-- A reserved opcode is not in the table. -/
theorem commandOf_eq_none {w : Word} (h : wordOpcodeDefined w = false) (flag : Bool) :
    commandOf (fieldOpcode w) flag = none := by
  rw [Option.eq_none_iff_forall_ne_some]
  intro i hi
  rw [wordOpcodeDefined_of_opcode (fieldOpcode_toNat w ▸ opcode_of_commandOf hi)] at h
  cases h

/-! ### The four checks of `30_encoding.md` R98 -/

theorem decode_reservedBits {w : Word} (h : wordReservedZero w = false) : decode w = .error .reservedBits := by
  rw [decode, if_pos (mt (wordReservedZero_iff w).2 (Bool.eq_false_iff.1 h))]

theorem decode_reservedOpcode {w : Word} (hr : wordReservedZero w = true) (hop : wordOpcodeDefined w = false) :
    decode w = .error .reservedOpcode := by
  simp only [decode, (wordReservedZero_iff w).1 hr, commandOf_eq_none hop, ne_eq, not_true_eq_false, if_false]

/-- The third check: a command that reads FLAGS bit 0 has no other bit of it. -/
theorem decode_of_hasFlag {w : Word} {i : Instr} (hr : wordReservedZero w = true) (hi : WordCommand w i)
    (hflag : i.hasFlag = true) :
    decode w = if w.toNat / 512 ≠ 0 then .error .undefinedFlagBits else .ok i := by
  have hlt := toNat_lt_of_wordReservedZero hr
  have hbits : fieldFlags w >>> 1 = 0 ↔ w.toNat / 512 = 0 := by
    simp only [BitVec.toNat_eq, BitVec.toNat_ushiftRight, fieldFlags_toNat, Nat.shiftRight_eq_div_pow,
      BitVec.ofNat_eq_ofNat, BitVec.toNat_ofNat]
    omega
  rw [WordCommand] at hi
  simp only [decode, (wordReservedZero_iff w).1 hr, hi, hflag, hbits, ne_eq, not_true_eq_false, if_false, if_true]

/-- The fourth check: any other command has no flag. -/
theorem decode_of_not_hasFlag {w : Word} {i : Instr} (hr : wordReservedZero w = true) (hi : WordCommand w i)
    (hflag : i.hasFlag = false) : decode w = if w.toNat / 256 ≠ 0 then .error .flagsNotZero else .ok i := by
  have hlt := toNat_lt_of_wordReservedZero hr
  have hbits : fieldFlags w = 0 ↔ w.toNat / 256 = 0 := by
    simp only [BitVec.toNat_eq, fieldFlags_toNat, BitVec.ofNat_eq_ofNat, BitVec.toNat_ofNat]
    omega
  rw [WordCommand] at hi
  simp only [decode, (wordReservedZero_iff w).1 hr, hi, hflag, hbits, ne_eq, not_true_eq_false, if_false,
    Bool.false_eq_true]

/-- A word that spells a command decodes to the command of its opcode and flags. -/
theorem decode_of_wordWellFormed {w : Word} (h : wordWellFormed w = true) :
    ∃ i, decode w = .ok i ∧ i.opcode = w.toNat % 256 ∧ i.flags = w.toNat / 256 := by
  simp only [wordWellFormed, Bool.and_eq_true] at h
  obtain ⟨⟨hr, hop⟩, hlegal⟩ := h
  obtain ⟨i, hi⟩ := exists_wordCommand hop
  have hlt := toNat_lt_of_wordReservedZero hr
  have hflags := hi.flags_eq
  rw [wordFlagsLegal, ← hi.opcode_eq, ← hasFlag_eq] at hlegal
  cases hflag : i.hasFlag with
  | false =>
    have hzero : w.toNat / 256 = 0 := by
      simp only [hflag, Bool.false_eq_true, if_false, beq_iff_eq] at hlegal
      omega
    refine ⟨i, (decode_of_not_hasFlag hr hi hflag).trans (if_neg (not_not.2 hzero)), hi.opcode_eq, ?_⟩
    simp [hflags, hflag, hzero]
  | true =>
    have hbit : w.toNat / 256 ≤ 1 := by
      simp only [hflag, if_true, decide_eq_true_eq] at hlegal
      omega
    have hzero : w.toNat / 512 = 0 := by omega
    refine ⟨i, (decode_of_hasFlag hr hi hflag).trans (if_neg (not_not.2 hzero)), hi.opcode_eq, ?_⟩
    rw [hflags, hflag, if_pos rfl, Nat.mod_eq_of_lt (by omega)]

/-! ### The encoder -/

/-- Each command decodes from its own word (`30_encoding.md` R94). -/
theorem decode_encode (i : Instr) : decode (encode i) = .ok i := by
  cases i with
  | sha256 hex => cases hex <;> rfl
  | b64uEncode pad => cases pad <;> rfl
  | _ => rfl

/-- The decoder of the opcode table reads a 32-bit word as the core does (`30_encoding.md` R100). -/
theorem decodeTableWord_toNat (w : Word) : decodeTableWord 32 w.toNat = (decode w).toOption := by
  rw [decodeTableWord, Nat.mod_eq_of_lt w.isLt, BitVec.ofNat_toNat, BitVec.setWidth_eq]
  cases decode w <;> rfl

/-- A word decodes only to the command it is the word of. -/
theorem encode_of_decode {w : Word} {i : Instr} (h : decode w = .ok i) : encode i = w := by
  obtain ⟨j, hj, hop, hflags⟩ := decode_of_wordWellFormed (wordWellFormed_of_decode h)
  obtain rfl : i = j := Except.ok.inj (h.symm.trans hj)
  rw [encode, hop, hflags, Nat.div_add_mod', BitVec.ofNat_toNat, BitVec.setWidth_eq]

/-- Settles O1: each command's own word decodes to it, and a word that decodes has the opcode and the flags of what it
decodes to. -/
theorem decodeEncodeAgree : Obligations.DecodeEncodeAgree := by
  refine ⟨fun i _ => ⟨decode_encode i, ?_⟩, fun _ _ => encode_of_decode⟩
  rw [decodeTableWord_toNat, decode_encode]
  rfl

/-- Settles O2: the decoder, one check at a time. -/
theorem decodeChecksInOrder : Obligations.DecodeChecksInOrder := by
  intro w
  refine ⟨decode_reservedBits, decode_reservedOpcode, fun hr hop hflagged hbits => ?_,
    fun hr hop hsha henc hbits => ?_, decode_of_wordWellFormed⟩
  · obtain ⟨i, hi⟩ := exists_wordCommand hop
    have hflag : i.hasFlag = true := by
      rw [hasFlag_eq, hi.opcode_eq]
      simpa using hflagged
    rw [decode_of_hasFlag hr hi hflag, if_pos hbits]
  · obtain ⟨i, hi⟩ := exists_wordCommand hop
    have hflag : i.hasFlag = false := by
      rw [hasFlag_eq, hi.opcode_eq]
      simp [hsha, henc]
    rw [decode_of_not_hasFlag hr hi hflag, if_pos hbits]

/-- Settles O3, by evaluation of the eight words. -/
theorem writtenWordsDecode : Obligations.WrittenWordsDecode := by
  unfold Obligations.WrittenWordsDecode
  decide

end Sys2Proof.Proofs
end

section
/-! SHA-256 by its rounds (`40_sha256.md` R121 to R127): the padded message, the schedule of a block word by word, and
the working variables and hash words step by step. -/

namespace Sys2Proof.Proofs

open Sys2Proof.Machine

/-! ### The functions of a word (R121, R122) -/

theorem rotr_eq_rotateRight {r : Nat} (h : r < 32) (x : Word) : rotr r x = x.rotateRight r := by
  rw [rotr, BitVec.rotateRight, BitVec.rotateRightAux, Nat.mod_eq_of_lt h]

theorem bigSigma0_eq (x : Word) : bigSigma0 x = x.rotateRight 2 ^^^ x.rotateRight 13 ^^^ x.rotateRight 22 := by
  simp [bigSigma0, rotr_eq_rotateRight]

theorem bigSigma1_eq (x : Word) : bigSigma1 x = x.rotateRight 6 ^^^ x.rotateRight 11 ^^^ x.rotateRight 25 := by
  simp [bigSigma1, rotr_eq_rotateRight]

theorem smallSigma0_eq (x : Word) : smallSigma0 x = x.rotateRight 7 ^^^ x.rotateRight 18 ^^^ x >>> 3 := by
  simp [smallSigma0, shr, rotr_eq_rotateRight]

theorem smallSigma1_eq (x : Word) : smallSigma1 x = x.rotateRight 17 ^^^ x.rotateRight 19 ^^^ x >>> 10 := by
  simp [smallSigma1, shr, rotr_eq_rotateRight]

/-! ### The padded message (R123) -/

theorem shaPad_eq (m : Bytes) : shaPad m =
    m ++ 0x80 :: List.replicate (shaZeroCount m.length) 0x00 ++ i2osp (8 * m.length % 2 ^ 32) 8 := by
  simp [shaPad, zeros, repeatByte]

theorem shaZeroCount_lt (l : Nat) : shaZeroCount l < 64 := by
  unfold shaZeroCount
  omega

theorem shaZeroCount_modEq (l : Nat) : (55 : Int) ≡ l + shaZeroCount l [ZMOD 64] := by
  unfold shaZeroCount Int.ModEq
  omega

/-- The padded message is the least number of whole blocks that holds the message and nine bytes more. -/
theorem shaPad_length (m : Bytes) : (shaPad m).length = 64 * ((m.length + 9 + 63) / 64) := by
  simp only [shaPad, List.length_append, List.length_singleton, zeros_length, i2osp_length, shaZeroCount]
  omega

/-! ### The schedule of a block (R124) -/

theorem os2ip_lt (x : Bytes) : os2ip x < 256 ^ x.length := by
  conv_lhs => rw [← i2osp_os2ip x, os2ip_i2osp]
  exact Nat.mod_lt _ (by positivity)

/-- W_t of a block. -/
def scheduleWord (block : Bytes) (t : Nat) : Word := (schedule block).getD t 0

/-- The word that follows the words so far, latest first. -/
def nextScheduleWord (ws : List Word) : Word :=
  smallSigma1 (ws.getD 1 0) + ws.getD 6 0 + smallSigma0 (ws.getD 14 0) + ws.getD 15 0

@[simp] theorem extendSchedule_length (n : Nat) (ws : List Word) :
    (extendSchedule n ws).length = n + ws.length := by
  induction n generalizing ws with
  | zero => simp [extendSchedule]
  | succ n ih =>
    rw [extendSchedule, ih, List.length_cons]
    omega

/-- `extendSchedule` adds a word and then the others; adding the others and then one word gives the same. -/
theorem extendSchedule_succ (n : Nat) (ws : List Word) :
    extendSchedule (n + 1) ws = nextScheduleWord (extendSchedule n ws) :: extendSchedule n ws := by
  induction n generalizing ws with
  | zero => rfl
  | succ n ih => exact ih (nextScheduleWord ws :: ws)

/-- More words are put before the words so far. -/
theorem extendSchedule_add (n k : Nat) (ws : List Word) :
    ∃ later, extendSchedule (n + k) ws = later ++ extendSchedule n ws := by
  induction k with
  | zero => exact ⟨[], rfl⟩
  | succ k ih =>
    obtain ⟨later, hlater⟩ := ih
    exact ⟨nextScheduleWord (extendSchedule (n + k) ws) :: later, by
      rw [← Nat.add_assoc, extendSchedule_succ, hlater, List.cons_append]⟩

@[simp] theorem blockWords_length (block : Bytes) : (blockWords block).length = 16 := by simp [blockWords]

@[simp] theorem schedule_length (block : Bytes) : (schedule block).length = 64 := by simp [schedule]

/-- W_t is the word at place t of the first 16 + n words, from the latest down. -/
theorem scheduleWord_eq_getD {block : Bytes} {n t : Nat} (hn : n ≤ 48) (ht : t < 16 + n) :
    scheduleWord block t = (extendSchedule n (blockWords block).reverse).getD (15 + n - t) 0 := by
  obtain ⟨later, hlater⟩ := extendSchedule_add n (48 - n) (blockWords block).reverse
  rw [Nat.add_sub_cancel' hn] at hlater
  have hlen : t < (extendSchedule n (blockWords block).reverse).length := by simp; omega
  rw [scheduleWord, schedule, hlater, List.reverse_append, List.getD_append _ _ _ _ (by simpa using hlen),
    List.getD_reverse _ hlen]
  congr 1
  simp
  omega

/-- The first 16 words are those of the block, big-endian. -/
theorem scheduleWord_toNat {block : Bytes} {t : Nat} (ht : t < 16) :
    (scheduleWord block t).toNat = os2ip ((block.drop (4 * t)).take 4) := by
  have hword : scheduleWord block t = BitVec.ofNat 32 (os2ip ((block.drop (4 * t)).take 4)) := by
    rw [scheduleWord_eq_getD (n := 0) (by omega) ht, extendSchedule, List.getD_reverse _ (by simp; omega)]
    have hplace : (blockWords block).length - 1 - (15 + 0 - t) = t := by simp; omega
    rw [hplace, blockWords]
    simp [slice, ht]
  have hlt : os2ip ((block.drop (4 * t)).take 4) < 2 ^ 32 :=
    (os2ip_lt _).trans_le (Nat.pow_le_pow_right (n := 256) (by omega) (List.length_take_le 4 _))
  rw [hword, BitVec.toNat_ofNat, Nat.mod_eq_of_lt hlt]

/-- The later words by the recurrence of R124. -/
theorem scheduleWord_recurrence {block : Bytes} {t : Nat} (hlow : 16 ≤ t) (hhigh : t < 64) :
    scheduleWord block t =
      ((scheduleWord block (t - 2)).rotateRight 17 ^^^ (scheduleWord block (t - 2)).rotateRight 19 ^^^
        scheduleWord block (t - 2) >>> 10) + scheduleWord block (t - 7) +
      ((scheduleWord block (t - 15)).rotateRight 7 ^^^ (scheduleWord block (t - 15)).rotateRight 18 ^^^
        scheduleWord block (t - 15) >>> 3) + scheduleWord block (t - 16) := by
  obtain ⟨n, rfl⟩ := Nat.exists_eq_add_of_le hlow
  have hback (j : Nat) (hj : j < 16) : scheduleWord block (16 + n - (j + 1)) =
      (extendSchedule n (blockWords block).reverse).getD j 0 := by
    rw [scheduleWord_eq_getD (n := n) (by omega) (by omega)]
    congr 1
    omega
  rw [← smallSigma1_eq, ← smallSigma0_eq, scheduleWord_eq_getD (n := n + 1) (by omega) (by omega),
    extendSchedule_succ, hback 1 (by omega), hback 6 (by omega), hback 14 (by omega), hback 15 (by omega),
    show 15 + (n + 1) - (16 + n) = 0 by omega]
  rfl

/-! ### The rounds of a block (R126, R127) -/

/-- T1 and T2 of a round, and the working variables after it. -/
theorem shaRound_temporaries (v : HashWords) (k w : Word) : ∃ t1 t2 : Word,
    t1 = v.h + (v.e.rotateRight 6 ^^^ v.e.rotateRight 11 ^^^ v.e.rotateRight 25) +
      ((v.e &&& v.f) ^^^ (~~~v.e &&& v.g)) + k + w ∧
    t2 = (v.a.rotateRight 2 ^^^ v.a.rotateRight 13 ^^^ v.a.rotateRight 22) +
      ((v.a &&& v.b) ^^^ (v.a &&& v.c) ^^^ (v.b &&& v.c)) ∧
    shaRound v (k, w) = ⟨t1 + t2, v.a, v.b, v.c, v.d + t1, v.e, v.f, v.g⟩ := by
  refine ⟨_, _, rfl, rfl, ?_⟩
  rw [shaRound, bigSigma1_eq, bigSigma0_eq, ch, maj]

/-- K_t. -/
def roundConstant (t : Nat) : Word := roundConstants.getD t 0

/-- The working variables before round t, from the hash words `h` before the block. -/
def workingVars (h : HashWords) (block : Bytes) : (t : Nat) → HashWords
  | 0 => h
  | t + 1 => shaRound (workingVars h block t) (roundConstant t, scheduleWord block t)

/-- The constants and words of the rounds, in pairs. -/
theorem zip_schedule_getElem? {block : Bytes} {t : Nat} (ht : t < 64) :
    (roundConstants.zip (schedule block))[t]? = some (roundConstant t, scheduleWord block t) := by
  have hK : t < roundConstants.length := ht
  simp [roundConstant, scheduleWord, hK, ht]

theorem foldl_take_shaRound (h : HashWords) (block : Bytes) {t : Nat} (ht : t ≤ 64) :
    ((roundConstants.zip (schedule block)).take t).foldl shaRound h = workingVars h block t := by
  induction t with
  | zero => rfl
  | succ t ih =>
    rw [List.take_add_one, zip_schedule_getElem? (by omega), List.foldl_append, ih (by omega)]
    rfl

theorem shaBlock_eq_add_workingVars (h : HashWords) (block : Bytes) :
    shaBlock h block = h.add (workingVars h block 64) := by
  have hlen : (roundConstants.zip (schedule block)).length ≤ 64 := by simp
  rw [shaBlock, ← foldl_take_shaRound h block le_rfl, List.take_of_length_le hlen]

/-! ### The blocks of the padded message (R124, R127) -/

/-- The hash words before block i of the padded message. -/
def hashBefore (p : Bytes) (i : Nat) : HashWords := shaBlocks i initialHash p

/-- One block more is the block that follows the ones so far. -/
theorem shaBlocks_succ (i : Nat) (h : HashWords) (p : Bytes) :
    shaBlocks (i + 1) h p = shaBlock (shaBlocks i h p) (slice p (64 * i) 64) := by
  induction i generalizing h p with
  | zero => rfl
  | succ i ih =>
    rw [shaBlocks, ih, shaBlocks, slice, slice, List.drop_drop, Nat.mul_succ, Nat.add_comm]

theorem hashBefore_succ (p : Bytes) (i : Nat) :
    hashBefore p (i + 1) = (hashBefore p i).add (workingVars (hashBefore p i) (slice p (64 * i) 64) 64) := by
  rw [hashBefore, shaBlocks_succ, shaBlock_eq_add_workingVars, hashBefore]

/-- A word of a block is four bytes of the padded message. -/
theorem slice_block_word {p : Bytes} {i t : Nat} (ht : t < 16) :
    ((slice p (64 * i) 64).drop (4 * t)).take 4 = (p.drop (64 * i + 4 * t)).take 4 := by
  rw [slice, List.drop_take, List.take_take, List.drop_drop, Nat.min_eq_left (by omega)]

/-- The digest is the hash words after the last block, big-endian. -/
theorem sha256_eq_flatten (m : Bytes) :
    let h := hashBefore (shaPad m) ((m.length + 9 + 63) / 64)
    sha256 m = ([h.a, h.b, h.c, h.d, h.e, h.f, h.g, h.h].map fun w => i2osp w.toNat 4).flatten := by
  rw [sha256, shaPad_length, Nat.mul_div_cancel_left _ (by omega), HashWords.digest, hashBefore]
  simp

/-- Settles O32: the schedule read word by word, and the fold over the rounds and the blocks cut after each step. -/
theorem digestFollowsRounds : Obligations.DigestFollowsRounds := by
  intro m
  refine ⟨shaPad m, (m.length + 9 + 63) / 64, shaZeroCount m.length, hashBefore (shaPad m),
    fun i => scheduleWord (slice (shaPad m) (64 * i) 64),
    fun i => workingVars (hashBefore (shaPad m) i) (slice (shaPad m) (64 * i) 64), roundConstant,
    by decide, shaZeroCount_lt _, shaZeroCount_modEq _, shaPad_eq m, shaPad_length m, rfl, rfl, fun i _ => ?block,
    sha256_eq_flatten m⟩
  case block =>
    refine ⟨fun t ht => ?_, fun t => scheduleWord_recurrence, rfl, fun t _ => shaRound_temporaries _ _ _,
      hashBefore_succ _ i⟩
    rw [scheduleWord_toNat ht, slice_block_word ht]

end Sys2Proof.Proofs
end

section
/-! The command SHA256 (`40_sha256.md` R128, R129). -/

namespace Sys2Proof.Proofs

open Sys2Proof.Machine Sys2Proof.Claims

theorem hexChar_eq_hexDigit {n : Nat} (h : n < 16) : hexChar n = hexDigit n := by
  revert n
  decide

/-- The hex text of a byte string, by the table of the sixteen digits. -/
theorem hexText_eq_hexOf (d : Bytes) : hexText d = hexOf d := by
  rw [hexText, hexOf, List.flatMap_def]
  congr 2
  funext b
  rw [hexChar_eq_hexDigit (by omega), hexChar_eq_hexDigit (by omega)]

/-- The rule of SHA256 once its regions pass the checks. -/
theorem runSha256_of_checks {hex : Bool} {c : InFlight} (m : Memory) (h : ChecksPass (.sha256 hex) c.args c.extRand) :
    runSha256 hex c m =
      okBytes c.args.a2.toNat
        (if hex then hexText (sha256 (m.read c.args.a0.toNat c.args.a1.toNat))
          else sha256 (m.read c.args.a0.toNat c.args.a1.toNat)) := by
  have hbounds : allInBounds [region c.args.a0 c.args.a1, regionOf c.args.a2 (if hex then 64 else 32)] = true :=
    allInBounds_operands h.1
  have hapart : (regionOf c.args.a2 (if hex then 64 else 32)).overlapsAny [region c.args.a0 c.args.a1] = false :=
    overlapsAny_operands h.2 rfl
  simp only [runSha256, hbounds, hapart]
  rfl

/-- Settles O33: past the checks the rule writes the digest or its hex text, whose digits are those of the table. -/
theorem sha256Result : Obligations.Sha256Result := by
  intro hex s c hc hchecks
  have hrule := runSha256_of_checks s.dmem hchecks
  rw [hexText_eq_hexOf] at hrule
  exact exec_eq_succeeded (i := .sha256 hex) hc (congrArg Completion.noDraw hrule)

end Sys2Proof.Proofs
end

section
/-! The commands HMAC_SHA256 and HMAC_VERIFY (`41_hmac.md` R140 to R143). -/

namespace Sys2Proof.Proofs

open Sys2Proof.Machine Sys2Proof.Claims

/-! ### HMAC(K, M) (R140) -/

/-- A string XORed with as many copies of a byte is XORed with it byte by byte. -/
theorem xorBytes_repeatByte {x : Bytes} {n : Nat} (b : Byte) (h : x.length = n) :
    xorBytes x (repeatByte b n) = x.map (· ^^^ b) := by
  subst h
  induction x with
  | nil => rfl
  | cons a x ih => exact congrArg ((a ^^^ b) :: ·) ih

/-- A key of 64 bytes is not hashed down, and a digest leaves 32 bytes of the block to pad. -/
theorem hmacKey_eq_blockKey (k : Bytes) : hmacKey k = blockKey k := by
  rw [hmacKey, blockKey]
  by_cases h : k.length ≤ 64
  · rw [if_neg (by omega), if_pos h]
    rfl
  · rw [if_pos (by omega), if_neg h, sha256_length]
    rfl

/-- K' fills one block of the hash. -/
theorem blockKey_length (k : Bytes) : (blockKey k).length = 64 := by
  rw [blockKey]
  split
  · rw [List.length_append, List.length_replicate]
    omega
  · rw [List.length_append, sha256_length, List.length_replicate]

theorem hmac_eq_hmacText (k m : Bytes) : hmac k m = hmacText k m := by
  rw [hmac, hmacKey_eq_blockKey, xorBytes_repeatByte _ (blockKey_length k),
    xorBytes_repeatByte _ (blockKey_length k), hmacText]

/-! ### HMAC_SHA256 (R141) -/

/-- The rule of HMAC_SHA256 once its regions pass the checks. -/
theorem runHmacSha256_of_checks {c : InFlight} (m : Memory) (h : ChecksPass .hmacSha256 c.args c.extRand) :
    runHmacSha256 c m =
      okBytes c.args.a4.toNat
        (hmac (m.read c.args.a0.toNat c.args.a1.toNat) (m.read c.args.a2.toNat c.args.a3.toNat)) := by
  have hbounds : allInBounds
      [region c.args.a0 c.args.a1, region c.args.a2 c.args.a3, regionOf c.args.a4 32] = true :=
    allInBounds_operands h.1
  have hapart : (regionOf c.args.a4 32).overlapsAny
      [region c.args.a0 c.args.a1, region c.args.a2 c.args.a3] = false :=
    overlapsAny_operands h.2 rfl
  simp only [runHmacSha256, hbounds, hapart]
  rfl

/-! ### HMAC_VERIFY (R142, R143) -/

/-- The rule of HMAC_VERIFY once its regions pass the checks. -/
theorem runHmacVerify_of_checks {c : InFlight} (m : Memory) (h : ChecksPass .hmacVerify c.args c.extRand) :
    runHmacVerify c m =
      okValid (c.args.a5.toNat == 32 &&
        bytesEqual (hmac (m.read c.args.a0.toNat c.args.a1.toNat) (m.read c.args.a2.toNat c.args.a3.toNat))
          (m.read c.args.a4.toNat c.args.a5.toNat)) := by
  have hbounds : allInBounds
      [region c.args.a0 c.args.a1, region c.args.a2 c.args.a3, region c.args.a4 c.args.a5] = true :=
    allInBounds_operands h.1
  exact check_passes hbounds

/-- The length check of HMAC_VERIFY turns no equal tag away: every HMAC(K, M) has 32 bytes. -/
theorem tagCheck_iff (k m tag : Bytes) :
    (tag.length == 32 && bytesEqual (hmac k m) tag) = true ↔ tag = hmacText k m := by
  rw [Bool.and_eq_true, beq_iff_eq, bytesEqual, beq_iff_eq, ← hmac_eq_hmacText]
  constructor
  · rintro ⟨-, heq⟩
    exact heq.symm
  · rintro rfl
    exact ⟨hmac_length k m, rfl⟩

/-- A rule that ends with a boolean completes with the record of a success and no MemWrite (`60_exceptions.md`
R304). -/
theorem exec_eq_answered {i : Instr} {s : State} {c : InFlight} {v : Bool} (hc : s.inflight = some c)
    (hrule : commandRule i s.rngDraws c s.dmem = .noDraw (okValid v)) : exec i s = .next (answered s v) := by
  rw [exec_eq_complete i hc, hrule]
  rfl

/-- Settles O34: past the checks HMAC_SHA256 writes the tag and HMAC_VERIFY compares it. -/
theorem hmacResults : Obligations.HmacResults := by
  intro s c hc
  refine ⟨fun hchecks => ?sha256, fun hchecks => ?verify⟩
  case sha256 =>
    rw [← hmac_eq_hmacText]
    exact exec_eq_succeeded (i := .hmacSha256) hc (congrArg Completion.noDraw (runHmacSha256_of_checks _ hchecks))
  case verify =>
    have hrule := congrArg Completion.noDraw (runHmacVerify_of_checks s.dmem hchecks)
    refine ⟨_, exec_eq_answered (i := .hmacVerify) hc hrule, ?_⟩
    rw [← tagCheck_iff, Memory.read_length]

end Sys2Proof.Proofs
end

section
/-! Base64url (`42_base64url.md` R150 to R155): the alphabet, the encoder by groups, the checks of the decoder on a text
cut into its body and its trailing `=`, and the two commands. -/

namespace Sys2Proof.Proofs

open Sys2Proof.Machine Sys2Proof.Claims

/-! ### The alphabet (R150) -/

/-- chr(v) by ranges and by the table of the alphabet. -/
theorem alphabet_getD {v : Nat} (h : v < 64) : alphabet.getD v 0 = b64Chr v := by
  revert v
  decide

theorem b64Val_b64Chr {v : Nat} (h : v < 64) : b64Val (b64Chr v) = some v := by
  revert v
  decide

theorem b64Val_b64Pad : b64Val b64Pad = none := by decide

theorem b64Chr_ne_b64Pad {v : Nat} (h : v < 64) : b64Chr v ≠ b64Pad := by
  intro heq
  have hval := b64Val_b64Chr h
  rw [heq, b64Val_b64Pad] at hval
  cases hval

/-- val answers only for the characters of the table. -/
theorem b64Val_eq_some {b : Byte} {v : Nat} (h : b64Val b = some v) : v < 64 ∧ b64Chr v = b := by
  simp only [b64Val] at h
  split_ifs at h
  all_goals
    obtain rfl := Option.some.inj h
    refine ⟨by omega, BitVec.eq_of_toNat_eq ?_⟩
    unfold b64Chr
    split_ifs <;> simp <;> omega

theorem b64Val_eq_none {b : Byte} (h : b ∉ alphabet) : b64Val b = none := by
  cases hval : b64Val b with
  | none => rfl
  | some v =>
    obtain ⟨hv, rfl⟩ := b64Val_eq_some hval
    refine absurd ?_ h
    rw [← alphabet_getD hv, List.getD_eq_getElem _ _ hv]
    exact List.getElem_mem _

/-! ### The characters and the integer of a list of 6-bit values -/

theorem charsOf_eq_map {vals : List Nat} (h : ∀ v ∈ vals, v < 64) : charsOf vals = vals.map b64Chr :=
  List.map_congr_left fun v hv => alphabet_getD (h v hv)

@[simp] theorem charsOf_length (vals : List Nat) : (charsOf vals).length = vals.length := List.length_map _

theorem charsOf_append (u v : List Nat) : charsOf (u ++ v) = charsOf u ++ charsOf v := List.map_append

@[simp] theorem valueOf_concat (vals : List Nat) (v : Nat) : valueOf (vals ++ [v]) = 64 * valueOf vals + v := by
  simp [valueOf]

theorem valueOf_append (u v : List Nat) : valueOf (u ++ v) = valueOf u * 64 ^ v.length + valueOf v := by
  induction v using List.reverseRecOn with
  | nil => simp [valueOf]
  | append_singleton v d ih =>
    rw [← List.append_assoc, valueOf_concat, valueOf_concat, ih, List.length_append, List.length_singleton, pow_succ]
    ring

theorem getLast?_charsOf_ne_b64Pad {vals : List Nat} (h : ∀ v ∈ vals, v < 64) :
    (charsOf vals).getLast? ≠ some b64Pad := by
  intro hlast
  have hmem := List.mem_of_getLast? hlast
  rw [charsOf_eq_map h] at hmem
  obtain ⟨v, hv, heq⟩ := List.mem_map.1 hmem
  exact b64Chr_ne_b64Pad (h v hv) heq

/-! ### The encoder (R151) -/

/-- The 6-bit values at these places of a 24-bit group, place 0 the least significant. -/
def groupValues (v : Nat) (places : List Nat) : List Nat := places.map fun k => v / 2 ^ (6 * k) % 64

theorem groupValues_lt (v : Nat) (places : List Nat) : ∀ d ∈ groupValues v places, d < 64 := by
  intro d hd
  obtain ⟨k, -, rfl⟩ := List.mem_map.1 hd
  exact Nat.mod_lt _ (by omega)

@[simp] theorem groupValues_length (v : Nat) (places : List Nat) : (groupValues v places).length = places.length :=
  List.length_map _

theorem charsOf_groupValues (v : Nat) (places : List Nat) :
    charsOf (groupValues v places) = places.map (b64GroupChr v) := by
  rw [charsOf_eq_map (groupValues_lt v places), groupValues, List.map_map]
  rfl

/-- The leading values of a group spell its leading bits. -/
theorem valueOf_groupValues {g : Bytes} (h : g.length = 3) :
    valueOf (groupValues (os2ip g) [3, 2]) = os2ip g / 2 ^ 12 ∧
      valueOf (groupValues (os2ip g) [3, 2, 1]) = os2ip g / 2 ^ 6 ∧
      valueOf (groupValues (os2ip g) [3, 2, 1, 0]) = os2ip g := by
  have hlt := os2ip_lt g
  rw [h] at hlt
  simp only [valueOf, groupValues, List.map_cons, List.map_nil, List.foldl_cons, List.foldl_nil]
  omega

theorem os2ip_append_zeros (x : Bytes) (n : Nat) : os2ip (x ++ zeros n) = os2ip x * 256 ^ n := by
  have hzeros : os2ip (zeros n) = 0 := by
    induction n with
    | zero => rfl
    | succ n ih => rw [zeros, repeatByte, List.replicate_succ', os2ip_concat, ← repeatByte, ← zeros, ih]; rfl
  rw [os2ip_append, hzeros, zeros_length, Nat.add_zero]

/-- The text `t` is the characters of `vals` and the `=` after them; the values spell the bits of `x` and zero bits to
the end of the last one. -/
structure SpellsBits (pad : Bool) (x t : Bytes) (vals : List Nat) : Prop where
  lt : ∀ v ∈ vals, v < 64
  length : vals.length = (4 * x.length + 2) / 3
  value : valueOf vals = os2ip x * 2 ^ (6 * vals.length - 8 * x.length)
  text : t = charsOf vals ++ List.replicate (if pad = true then (3 - x.length % 3) % 3 else 0) b64Pad

/-- A last group of one byte. -/
theorem spellsBits_one (pad : Bool) (x : Byte) :
    SpellsBits pad [x] (b64Encode pad [x]) (groupValues (os2ip ([x] ++ zeros 2)) [3, 2]) where
  lt := groupValues_lt _ _
  length := by simp
  value := by
    rw [(valueOf_groupValues rfl).1, os2ip_append_zeros]
    simp only [groupValues_length, List.length_cons, List.length_nil]
    omega
  text := by
    rw [charsOf_groupValues]
    cases pad <;> rfl

/-- A last group of two bytes. -/
theorem spellsBits_two (pad : Bool) (x y : Byte) :
    SpellsBits pad [x, y] (b64Encode pad [x, y]) (groupValues (os2ip ([x, y] ++ zeros 1)) [3, 2, 1]) where
  lt := groupValues_lt _ _
  length := by simp
  value := by
    rw [(valueOf_groupValues rfl).2.1, os2ip_append_zeros]
    simp only [groupValues_length, List.length_cons, List.length_nil]
    omega
  text := by
    rw [charsOf_groupValues]
    cases pad <;> rfl

/-- A group of three bytes before the rest of the string. -/
theorem spellsBits_three {pad : Bool} {rest t : Bytes} {vals : List Nat} (x y z : Byte)
    (h : SpellsBits pad rest t vals) :
    SpellsBits pad (x :: y :: z :: rest) ([3, 2, 1, 0].map (b64GroupChr (os2ip [x, y, z])) ++ t)
      (groupValues (os2ip [x, y, z]) [3, 2, 1, 0] ++ vals) where
  lt := List.forall_mem_append.2 ⟨groupValues_lt _ _, h.lt⟩
  length := by
    have hlen := h.length
    simp only [List.length_append, groupValues_length, List.length_cons, List.length_nil]
    omega
  value := by
    have hlen := h.length
    have hgroup := (valueOf_groupValues (g := [x, y, z]) rfl).2.2
    have hsplit : os2ip (x :: y :: z :: rest) = os2ip [x, y, z] * 256 ^ rest.length + os2ip rest :=
      os2ip_append [x, y, z] rest
    have hzeros : 6 * (4 + vals.length) - 8 * (rest.length + 3) = 6 * vals.length - 8 * rest.length := by omega
    have hshift : 64 ^ vals.length = 256 ^ rest.length * 2 ^ (6 * vals.length - 8 * rest.length) := by
      rw [show 64 = 2 ^ 6 from rfl, show 256 = 2 ^ 8 from rfl, ← pow_mul, ← pow_mul, ← pow_add]
      congr 1
      omega
    rw [valueOf_append, hgroup, h.value, hsplit, hshift]
    simp only [List.length_append, groupValues_length, List.length_cons, List.length_nil, Nat.reduceAdd, hzeros]
    ring
  text := by
    have hpads : (x :: y :: z :: rest).length % 3 = rest.length % 3 := Nat.add_mod_right rest.length 3
    rw [charsOf_append, charsOf_groupValues, List.append_assoc, hpads, ← h.text]

/-- The text of R151 by its 6-bit values. -/
theorem exists_spellsBits_b64Encode (pad : Bool) (x : Bytes) : ∃ vals, SpellsBits pad x (b64Encode pad x) vals := by
  fun_induction b64Encode pad x with
  | case1 => exact ⟨[], by simp, rfl, rfl, by cases pad <;> rfl⟩
  | case2 x => exact ⟨_, spellsBits_one pad x⟩
  | case3 x y => exact ⟨_, spellsBits_two pad x y⟩
  | case4 x y z rest v ih =>
    obtain ⟨vals, hvals⟩ := ih
    exact ⟨_, spellsBits_three x y z hvals⟩

/-! ### The command B64U_ENCODE (R152) -/

/-- The rule of B64U_ENCODE once its regions pass the checks. -/
theorem runB64uEncode_of_checks {pad : Bool} {c : InFlight} (m : Memory)
    (h : ChecksPass (.b64uEncode pad) c.args c.extRand) :
    runB64uEncode pad c m =
      okBytes c.args.a2.toNat (b64Encode pad (m.read c.args.a0.toNat c.args.a1.toNat)) := by
  have hbounds : allInBounds
      [region c.args.a0 c.args.a1, regionOf c.args.a2 (b64EncodedLen pad c.args.a1.toNat)] = true :=
    allInBounds_operands h.1
  have hapart : (regionOf c.args.a2 (b64EncodedLen pad c.args.a1.toNat)).overlapsAny
      [region c.args.a0 c.args.a1] = false :=
    overlapsAny_operands h.2 rfl
  exact (check_passes hbounds).trans (if_neg (Bool.eq_false_iff.1 hapart))

/-- Settles O35: past the checks the rule writes the text of R151, group by group the 6-bit values of the source. -/
theorem b64uEncodeResult : Obligations.B64uEncodeResult := by
  intro pad s c hc hchecks
  have hrule := congrArg Completion.noDraw (runB64uEncode_of_checks s.dmem hchecks)
  obtain ⟨vals, hlt, hlen, hvalue, htext⟩ :=
    exists_spellsBits_b64Encode pad (s.dmem.read c.args.a0.toNat c.args.a1.toNat)
  rw [Memory.read_length] at hlen hvalue htext
  rw [htext] at hrule
  exact ⟨vals, hlt, hlen, hvalue, exec_eq_succeeded (i := .b64uEncode pad) hc hrule⟩

/-! ### A text: its body and its trailing `=` (R153) -/

/-- A body that does not end in `=`, then p times `=`: the decoder finds the p. -/
theorem b64TrailingPads_append {body : Bytes} (p : Nat) (h : body.getLast? ≠ some b64Pad) :
    b64TrailingPads (body ++ List.replicate p b64Pad) = p := by
  have hbody : body.reverse.takeWhile (· == b64Pad) = [] := by
    rw [← List.head?_reverse] at h
    cases hrev : body.reverse with
    | nil => rfl
    | cons b rest =>
      rw [hrev, List.head?_cons, Ne, Option.some.injEq] at h
      simp [h]
  rw [b64TrailingPads, List.reverse_append, List.reverse_replicate, List.takeWhile_append_of_pos (by simp), hbody,
    List.append_nil, List.length_replicate]

/-- The bytes before the trailing `=` are the body. -/
theorem take_trailingPads {body : Bytes} (p : Nat) (h : body.getLast? ≠ some b64Pad) :
    (body ++ List.replicate p b64Pad).take
      ((body ++ List.replicate p b64Pad).length - b64TrailingPads (body ++ List.replicate p b64Pad)) = body := by
  rw [b64TrailingPads_append p h, List.length_append, List.length_replicate, Nat.add_sub_cancel, List.take_left]

/-- Check 1 passes over the characters of the alphabet. -/
theorem b64Scan_charsOf_append {vals : List Nat} (h : ∀ v ∈ vals, v < 64) (rest : Bytes) :
    b64Scan (charsOf vals ++ rest) = b64Scan rest := by
  rw [charsOf_eq_map h]
  induction vals with
  | nil => rfl
  | cons v vals ih =>
    obtain ⟨hv, hvals⟩ := List.forall_mem_cons.1 h
    rw [List.map_cons, List.cons_append, b64Scan, if_neg (b64Chr_ne_b64Pad hv), b64Val_b64Chr hv]
    exact ih hvals

theorem b64Scan_charsOf {vals : List Nat} (h : ∀ v ∈ vals, v < 64) : b64Scan (charsOf vals) = none := by
  rw [← List.append_nil (charsOf vals), b64Scan_charsOf_append h]
  rfl

/-- Check 1 stops at the first byte outside the alphabet. -/
theorem b64Scan_cons_of_notMem {b : Byte} (h : b ∉ alphabet) (rest : Bytes) :
    b64Scan (b :: rest) = some (if b = b64Pad then .b64BadPad else .b64BadChar) := by
  rw [b64Scan, b64Val_eq_none h]
  split <;> rfl

theorem b64Validate_of_scan_error {body : Bytes} {e : CmdError} (p : Nat) (hlast : body.getLast? ≠ some b64Pad)
    (h : b64Scan body = some e) : b64Validate (body ++ List.replicate p b64Pad) = .error e := by
  simp only [b64Validate, take_trailingPads p hlast, h]

/-- Checks 2 and 3, on a body that passes check 1 and p times `=`. -/
theorem b64Validate_of_scan_none {body : Bytes} (p : Nat) (hlast : body.getLast? ≠ some b64Pad)
    (h : b64Scan body = none) :
    b64Validate (body ++ List.replicate p b64Pad) =
      if 2 < p then .error .b64BadPad
      else if 6 * (body.length + p) / 8 < p then .error .b64BadPad
      else .ok (6 * (body.length + p) / 8 - p) := by
  simp only [b64Validate, take_trailingPads p hlast, h]
  rw [b64TrailingPads_append p hlast, List.length_append, List.length_replicate]

/-! ### The bits of a text (R154) -/

/-- The integer of a bit string, the first bit the most significant. -/
def bitsValue (bits : List Bool) : Nat := bits.foldl (fun acc b => 2 * acc + b.toNat) 0

theorem byteOfBits_eq (bits : List Bool) : byteOfBits bits = BitVec.ofNat 8 (bitsValue bits) := rfl

@[simp] theorem bitsValue_concat (bits : List Bool) (b : Bool) :
    bitsValue (bits ++ [b]) = 2 * bitsValue bits + b.toNat := by
  simp [bitsValue]

theorem bitsValue_append (u v : List Bool) : bitsValue (u ++ v) = bitsValue u * 2 ^ v.length + bitsValue v := by
  induction v using List.reverseRecOn with
  | nil => simp [bitsValue]
  | append_singleton v b ih =>
    rw [← List.append_assoc, bitsValue_concat, bitsValue_concat, ih, List.length_append, List.length_singleton,
      pow_succ]
    ring

theorem bitsValue_lt (bits : List Bool) : bitsValue bits < 2 ^ bits.length := by
  induction bits using List.reverseRecOn with
  | nil => decide
  | append_singleton bits b ih =>
    have hb := Bool.toNat_lt b
    rw [bitsValue_concat, List.length_append, List.length_singleton, pow_succ]
    omega

/-- The first k bits are the integer without its low bits. -/
theorem bitsValue_take (bits : List Bool) (k : Nat) :
    bitsValue (bits.take k) = bitsValue bits / 2 ^ (bits.length - k) := by
  have hlow := bitsValue_lt (bits.drop k)
  conv_rhs => rw [← List.take_append_drop k bits, bitsValue_append]
  rw [List.take_append_drop, ← List.length_drop, Nat.mul_comm, Nat.mul_add_div (by positivity),
    Nat.div_eq_of_lt hlow, Nat.add_zero]

/-- The bytes cut from a bit string have the integer of the bits they were cut from. -/
theorem os2ip_bytesOfBits {n : Nat} {bits : List Bool} (h : 8 * n ≤ bits.length) :
    os2ip (bytesOfBits n bits) = bitsValue (bits.take (8 * n)) := by
  induction n generalizing bits with
  | zero => rfl
  | succ n ih =>
    have hbyte : (byteOfBits (bits.take 8)).toNat = bitsValue (bits.take 8) := by
      have hlt := bitsValue_lt (bits.take 8)
      rw [List.length_take_of_le (by omega)] at hlt
      rw [byteOfBits_eq, BitVec.toNat_ofNat, Nat.mod_eq_of_lt hlt]
    have hrest : 8 * n ≤ (bits.drop 8).length := by
      rw [List.length_drop]
      omega
    rw [bytesOfBits, os2ip_cons, hbyte, ih hrest, bytesOfBits_length, show 8 * (n + 1) = 8 + 8 * n by ring,
      List.take_add, bitsValue_append, List.length_take_of_le hrest, pow_mul,
      show 2 ^ 8 = 256 from rfl]

theorem sixBits_flatMap_length (vals : List Nat) : (vals.flatMap sixBits).length = 6 * vals.length := by
  induction vals with
  | nil => rfl
  | cons v vals ih =>
    rw [List.flatMap_cons, List.length_append, ih, List.length_cons, Nat.mul_succ, Nat.add_comm]
    rfl

theorem bitsValue_sixBits {v : Nat} (h : v < 64) : bitsValue (sixBits v) = v := by
  revert v
  decide

/-- The bits of a list of 6-bit values have the integer of the list. -/
theorem bitsValue_flatMap_sixBits {vals : List Nat} (h : ∀ v ∈ vals, v < 64) :
    bitsValue (vals.flatMap sixBits) = valueOf vals := by
  induction vals using List.reverseRecOn with
  | nil => rfl
  | append_singleton vals v ih =>
    obtain ⟨hvals, hv⟩ := List.forall_mem_append.1 h
    rw [List.flatMap_append, List.flatMap_singleton, bitsValue_append, ih hvals,
      bitsValue_sixBits (hv v List.mem_cons_self), valueOf_concat, Nat.mul_comm]
    rfl

theorem b64Bits_charsOf {vals : List Nat} (p : Nat) (h : ∀ v ∈ vals, v < 64) :
    b64Bits (charsOf vals ++ List.replicate p b64Pad) = vals.flatMap sixBits := by
  rw [b64Bits, take_trailingPads p (getLast?_charsOf_ne_b64Pad h), charsOf_eq_map h, List.flatMap_map]
  refine List.flatMap_congr fun v hv => ?_
  rw [b64Val_b64Chr (h v hv), Option.getD_some]

/-- The decoded bytes are the leading bits of the characters' values. -/
theorem os2ip_b64Decode {vals : List Nat} {n : Nat} (p : Nat) (h : ∀ v ∈ vals, v < 64)
    (hn : 8 * n ≤ 6 * vals.length) :
    os2ip (b64Decode (charsOf vals ++ List.replicate p b64Pad) n) = valueOf vals / 2 ^ (6 * vals.length - 8 * n) := by
  have hlen := sixBits_flatMap_length vals
  rw [b64Decode, b64Bits_charsOf p h, os2ip_bytesOfBits (by omega), bitsValue_take, hlen, bitsValue_flatMap_sixBits h]

/-! ### The command B64U_DECODE (R155) -/

/-- The rule of B64U_DECODE on a text that the validation rejects. -/
theorem runB64uDecode_of_error {c : InFlight} {m : Memory} {e : CmdError} (hin : Inside c.args.a0 c.args.a1.toNat)
    (h : b64Validate (m.read c.args.a0.toNat c.args.a1.toNat) = .error e) : runB64uDecode c m = .error e := by
  refine (check_passes ((inBounds_iff (region c.args.a0 c.args.a1)).2 hin)).trans ?_
  simp only [Memory.fetch, region, h]

/-- The rule of B64U_DECODE on a text that the validation accepts: the checks of the output region. -/
theorem runB64uDecode_of_ok {c : InFlight} {m : Memory} {n : Nat} (hin : Inside c.args.a0 c.args.a1.toNat)
    (h : b64Validate (m.read c.args.a0.toNat c.args.a1.toNat) = .ok n) :
    runB64uDecode c m =
      if ¬ Inside c.args.a2 n then .error .outOfBounds
      else if Overlaps c.args.a2 n c.args.a0 c.args.a1.toNat then .error .overlap
      else okBytes c.args.a2.toNat (b64Decode (m.read c.args.a0.toNat c.args.a1.toNat) n) := by
  refine (check_passes ((inBounds_iff (region c.args.a0 c.args.a1)).2 hin)).trans ?_
  have hinside : (!(regionOf c.args.a2 n).inBounds) = true ↔ ¬ Inside c.args.a2 n := by
    rw [Bool.not_eq_true', ← Bool.not_eq_true, inBounds_iff]
    rfl
  have hoverlap : (regionOf c.args.a2 n).overlapsAny [region c.args.a0 c.args.a1] = true ↔
      Overlaps c.args.a2 n c.args.a0 c.args.a1.toNat := by
    simp only [overlapsAny_iff, List.mem_singleton, exists_eq_left]
    rfl
  simp only [Memory.fetch, region, h]
  exact if_congr hinside rfl (if_congr hoverlap rfl rfl)

/-- Settles O36: the validation by the text's body and its trailing `=`, then the checks of the output region; the
length floor(6L/8) − p leaves no more bits to write than the characters hold. -/
theorem b64uDecodeResult : Obligations.B64uDecodeResult := by
  intro s c body p hc hin (htext : s.dmem.read c.args.a0.toNat c.args.a1.toNat = body ++ List.replicate p b64Pad)
    (hlast : body.getLast? ≠ some b64Pad)
  have hlen : c.args.a1.toNat = body.length + p := by
    rw [← s.dmem.read_length c.args.a0.toNat c.args.a1.toNat, htext, List.length_append, List.length_replicate]
  refine ⟨fun vals b rest hvals hbody hb => ?badByte, fun vals hvals hbody => ?characters⟩
  case badByte =>
    have hscan : b64Scan body = some (if b = b64Pad then .b64BadPad else .b64BadChar) := by
      rw [hbody, b64Scan_charsOf_append hvals, b64Scan_cons_of_notMem hb]
    have hrule := runB64uDecode_of_error hin ((congrArg _ htext).trans (b64Validate_of_scan_error p hlast hscan))
    rw [exec_eq_failed (i := .b64uDecode) hc (congrArg Completion.noDraw hrule), apply_ite CmdError.code]
    rfl
  case characters =>
    subst hbody
    have hvalidate := (congrArg _ htext).trans (b64Validate_of_scan_none p hlast (b64Scan_charsOf hvals))
    rw [← hlen] at hvalidate
    rw [charsOf_length] at hlen
    refine ⟨fun hbad => ?rejected, fun hp hneg => ?accepted⟩
    case rejected =>
      have herror : b64Validate (s.dmem.read c.args.a0.toNat c.args.a1.toNat) = .error .b64BadPad := by
        rw [hvalidate]
        rcases hbad with hthree | hneg
        · rw [if_pos hthree]
        · rw [if_pos hneg, ite_self]
      exact exec_eq_failed (i := .b64uDecode) hc (congrArg Completion.noDraw (runB64uDecode_of_error hin herror))
    case accepted =>
      rw [if_neg hp.not_gt, if_neg hneg.not_gt] at hvalidate
      have hrule := congrArg Completion.noDraw (runB64uDecode_of_ok hin hvalidate)
      refine ⟨fun hout => ?outside, fun hinside hover => ?overlap, fun hinside hapart => ?succeeds⟩
      case outside =>
        rw [if_pos hout] at hrule
        exact exec_eq_failed (i := .b64uDecode) hc hrule
      case overlap =>
        rw [if_neg (not_not.2 hinside), if_pos hover] at hrule
        exact exec_eq_failed (i := .b64uDecode) hc hrule
      case succeeds =>
        rw [if_neg (not_not.2 hinside), if_neg hapart, htext] at hrule
        refine ⟨_, b64Decode_length _ _, ?_, exec_eq_succeeded (i := .b64uDecode) hc hrule⟩
        rw [b64Decode_length]
        exact os2ip_b64Decode p hvals (by omega)

/-! ### Decoding an encoded string -/

/-- The length of R153 for the n characters and the p times `=` of an encoded string of l bytes. -/
theorem decodedLength_of_encodedLength {l n p : Nat} (hn : n = (4 * l + 2) / 3) (hp : p = 0 ∨ p = (3 - l % 3) % 3) :
    p ≤ 2 ∧ p ≤ 6 * (n + p) / 8 ∧ 6 * (n + p) / 8 - p = l ∧ 8 * l ≤ 6 * n := by
  have hgroup : l % 3 = 0 ∨ l % 3 = 1 ∨ l % 3 = 2 := by omega
  rcases hgroup with h | h | h <;> rw [h] at hp <;> omega

/-- Settles O37: the characters of the text of R151 pass the validation with the string's length, and the bytes decoded
from their values have the string's length and its integer. -/
theorem base64RoundTrip : Obligations.Base64RoundTrip := by
  intro pad x
  obtain ⟨vals, hlt, hlen, hvalue, htext⟩ := exists_spellsBits_b64Encode pad x
  generalize hp : (if pad = true then (3 - x.length % 3) % 3 else 0) = p at htext
  have hpads : p = 0 ∨ p = (3 - x.length % 3) % 3 := by
    rw [← hp]
    cases pad
    · exact .inl rfl
    · exact .inr rfl
  obtain ⟨htwo, hle, hout, hbits⟩ := decodedLength_of_encodedLength hlen hpads
  rw [htext]
  constructor
  case left =>
    rw [b64Validate_of_scan_none p (getLast?_charsOf_ne_b64Pad hlt) (b64Scan_charsOf hlt), charsOf_length,
      if_neg htwo.not_gt, if_neg hle.not_gt, hout]
  case right =>
    have hdecoded := os2ip_b64Decode (n := x.length) p hlt hbits
    rw [hvalue, Nat.mul_div_cancel _ (by positivity)] at hdecoded
    rw [← i2osp_os2ip (b64Decode _ _), hdecoded, b64Decode_length, i2osp_os2ip]

end Sys2Proof.Proofs
end

section
/-! The checks of a command past which its rule goes on (`60_exceptions.md` R306). -/

namespace Sys2Proof.Proofs

open Sys2Proof.Machine Sys2Proof.Claims

/-- Key check 1 passes for a command past its operand checks. -/
theorem bitLengthOk_of_checks {i : Instr} {A : Args} {x : Bool} (hi : takesRsaKey i = true) (h : ChecksPass i A x) :
    bitLengthOk A.a0.toNat = true :=
  (bitLengthOk_iff A).2 (h.1.1 hi)

/-- A rule goes on past an overlap check that passes. -/
theorem overlap_passes {α : Type} {b : Bool} {x y : α} (h : b = false) : (if b then x else y) = y :=
  if_neg (Bool.eq_false_iff.1 h)

end Sys2Proof.Proofs
end

section
/-! Modular exponentiation by square and multiply (`44_rsa_engine.md` R201), and the two RSA primitives on it (R202,
R203). -/

namespace Sys2Proof.Proofs

open Sys2Proof.Machine

/-- Every turn of the loop keeps acc · base^x mod n: base is squared as x is halved, and an odd x gives one factor to
acc. -/
theorem modExpLoop_eq (n fuel : Nat) {acc base x : Nat} (h : x < 2 ^ fuel) :
    modExpLoop n fuel acc base x = acc * base ^ x % n := by
  induction fuel generalizing acc base x with
  | zero =>
    obtain rfl : x = 0 := by simpa using h
    rw [modExpLoop, pow_zero, mul_one]
  | succ fuel ih =>
    rw [modExpLoop]
    split
    next hx => rw [hx, pow_zero, mul_one]
    next =>
      have hsquare : (base * base % n) ^ (x / 2) ≡ base ^ (2 * (x / 2)) [MOD n] := by
        rw [pow_mul, pow_two]
        exact (Nat.mod_modEq _ n).pow _
      rw [ih (by omega)]
      split
      next hodd =>
        have hx : base ^ x = base * base ^ (2 * (x / 2)) := by
          rw [← pow_succ', show 2 * (x / 2) + 1 = x by omega]
        rw [hx, ← mul_assoc]
        exact (Nat.mod_modEq _ n).mul hsquare
      next heven =>
        rw [show 2 * (x / 2) = x by omega] at hsquare
        exact hsquare.mul_left acc

theorem modExp_eq_pow_mod (b x n : Nat) : modExp b x n = b ^ x % n := by
  rw [modExp, modExpLoop_eq n _ (lt_two_pow_bitLength x), one_mul]

theorem rsasp1_eq (n d m : Nat) : rsasp1 n d m = if n ≤ m then .error .repOutOfRange else .ok (m ^ d % n) := by
  rw [rsasp1, modExp_eq_pow_mod]

theorem rsavp1_eq (n e s : Nat) : rsavp1 n e s = if n ≤ s then .error .repOutOfRange else .ok (s ^ e % n) := by
  rw [rsavp1, modExp_eq_pow_mod]

/-- A power mod n fits the width of the operand n (`44_rsa_engine.md` R205, R206). -/
theorem pow_mod_lt_of_read {m : Memory} {a k n : Nat} (hn : n = os2ip (m.read a k)) (hpos : 0 < n) (b x : Nat) :
    b ^ x % n < 256 ^ k := by
  have hfits := os2ip_lt (m.read a k)
  rw [← hn, Memory.read_length] at hfits
  exact (Nat.mod_lt _ hpos).trans hfits

/-- A string equals the I2OSP of a value at its own length exactly when the value is its OS2IP. -/
theorem i2osp_eq_iff {x : Bytes} {y w : Nat} (hx : x.length = w) (hy : y < 256 ^ w) :
    i2osp y w = x ↔ y = os2ip x := by
  subst hx
  constructor
  · intro h
    rw [← h, os2ip_i2osp_of_lt hy]
  · rintro rfl
    exact i2osp_os2ip x

end Sys2Proof.Proofs
end

section
/-! EMSA-PKCS1-v1_5 (`43_rsa_padding.md` R170, R171) and the command EMSA_PKCS1_ENCODE (R172). -/

namespace Sys2Proof.Proofs

open Sys2Proof.Machine Sys2Proof.Claims

theorem encPkcs1_eq (d : Bytes) (emLen : Nat) :
    encPkcs1 d emLen = if emLen < 62 then .error .encTooShort else .ok (pkcs1Text d emLen) := by
  simp [encPkcs1, pkcs1Text, digestInfo, digestInfoPrefix, repeatByte]

theorem pkcs1Text_length {d : Bytes} {emLen : Nat} (hd : d.length = 32) (h : 62 ≤ emLen) :
    (pkcs1Text d emLen).length = emLen :=
  encPkcs1_length hd (by rw [encPkcs1_eq, if_neg (by omega)])

/-- The rule of EMSA_PKCS1_ENCODE once its regions pass the checks. -/
theorem runEmsaPkcs1Encode_of_checks {c : InFlight} (m : Memory)
    (h : ChecksPass .emsaPkcs1Encode c.args c.extRand) :
    runEmsaPkcs1Encode c m =
      if c.args.a1.toNat < 62 then .error .encTooShort
      else okBytes c.args.a2.toNat (pkcs1Text (m.read c.args.a0.toNat 32) c.args.a1.toNat) := by
  have hbounds : allInBounds [regionOf c.args.a0 32, region c.args.a2 c.args.a1] = true := allInBounds_operands h.1
  have hapart : (region c.args.a2 c.args.a1).overlapsAny [regionOf c.args.a0 32] = false :=
    overlapsAny_operands h.2 rfl
  refine (check_passes hbounds).trans ((overlap_passes hapart).trans ?_)
  simp only [encPkcs1_eq, Memory.fetch, region, regionOf]
  by_cases hshort : c.args.a1.toNat < 62
  · simp only [if_pos hshort]
  · simp only [if_neg hshort]

/-- Settles O38: past the checks the rule compares emLen with 62 and writes the encoding. -/
theorem emsaPkcs1Result : Obligations.EmsaPkcs1Result := by
  intro s c hc hchecks
  have hrule := congrArg Completion.noDraw (runEmsaPkcs1Encode_of_checks s.dmem hchecks)
  constructor
  · intro hshort
    rw [if_pos hshort] at hrule
    exact exec_eq_failed (i := .emsaPkcs1Encode) hc hrule
  · intro hlong
    rw [if_neg hlong.not_gt] at hrule
    exact exec_eq_succeeded (i := .emsaPkcs1Encode) hc hrule

end Sys2Proof.Proofs
end

section
/-! MGF1 byte by byte (`43_rsa_padding.md` R173) and the command MGF1 (R174). -/

namespace Sys2Proof.Proofs

open Sys2Proof.Machine Sys2Proof.Claims

/-- Byte j of a concatenation of strings of k bytes is byte j mod k of the string number j / k. -/
theorem getD_flatMap_const {α : Type} {l : List α} {f : α → Bytes} {k : Nat} (hk : 0 < k)
    (h : ∀ a ∈ l, (f a).length = k) (j : Nat) :
    (l.flatMap f).getD j 0 = ((l.map f).getD (j / k) []).getD (j % k) 0 := by
  induction l generalizing j with
  | nil => rfl
  | cons a l ih =>
    rw [List.forall_mem_cons] at h
    obtain ⟨ha, hl⟩ := h
    rw [List.flatMap_cons, List.map_cons]
    by_cases hj : j < k
    · rw [List.getD_append _ _ _ _ (by omega), Nat.div_eq_of_lt hj, Nat.mod_eq_of_lt hj, List.getD_cons_zero]
    · rw [List.getD_append_right _ _ _ _ (by omega), ha, ih hl, Nat.div_eq_sub_div (a := j) hk (by omega),
        List.getD_cons_succ, Nat.mod_eq_sub_mod (a := j) (by omega)]

/-- String number i of the strings made of 0, 1, .. in order. -/
theorem getD_map_range (f : Nat → Bytes) {i n : Nat} (h : i < n) : ((List.range n).map f).getD i [] = f i := by
  simp [h]

theorem mgf1_eq_maskText (seed : Bytes) (n : Nat) : mgf1 seed n = maskText seed n := by
  refine List.ext_getElem (by simp [maskText]) fun j hj _ => ?_
  rw [mgf1_length] at hj
  have hbyte := getD_flatMap_const (l := List.range ((n + 31) / 32)) (f := fun i => sha256 (seed ++ i2osp i 4))
    (k := 32) (by decide) (fun _ _ => sha256_length _) j
  rw [getD_map_range _ (by omega)] at hbyte
  simp only [maskText, mgf1, List.getElem_map, List.getElem_range, List.getElem_take]
  rw [getD_map_range _ (by omega), ← hbyte, List.getD_eq_getElem]

/-- The rule of MGF1 once its regions pass the checks: no mask length is too long. -/
theorem runMgf1_of_checks {c : InFlight} (m : Memory) (h : ChecksPass .mgf1 c.args c.extRand) :
    runMgf1 c m =
      okBytes c.args.a3.toNat (maskText (m.read c.args.a0.toNat c.args.a1.toNat) c.args.a2.toNat) := by
  have hbounds : allInBounds [region c.args.a0 c.args.a1, region c.args.a3 c.args.a2] = true :=
    allInBounds_operands h.1
  have hapart : (region c.args.a3 c.args.a2).overlapsAny [region c.args.a0 c.args.a1] = false :=
    overlapsAny_operands h.2 rfl
  rw [← mgf1_eq_maskText]
  exact (if_neg (mgf1_len_le c)).trans ((check_passes hbounds).trans (overlap_passes hapart))

/-- Settles O39: past the checks the rule writes the mask of R173. -/
theorem mgf1Result : Obligations.Mgf1Result := fun _ _ hc hchecks =>
  exec_eq_succeeded (i := .mgf1) hc (congrArg Completion.noDraw (runMgf1_of_checks _ hchecks))

end Sys2Proof.Proofs
end

section
/-! EMSA-PSS (`43_rsa_padding.md` R175, R177) and the commands EMSA_PSS_ENCODE (R176) and EMSA_PSS_VERIFY (R178). -/

namespace Sys2Proof.Proofs

open Sys2Proof.Machine Sys2Proof.Claims

/-! ### Clearing the top bits of a string -/

/-- Clearing the top t bits of a byte keeps its value modulo 2^(8 − t). -/
theorem toNat_and_mask {t : Nat} (ht : t ≤ 8) (b : Byte) :
    (b &&& ((0xFF : Byte) >>> t)).toNat = b.toNat % 2 ^ (8 - t) := by
  have hmask : (0xFF : Byte).toNat >>> t = 2 ^ (8 - t) - 1 := by
    revert t
    decide
  rw [BitVec.toNat_and, BitVec.toNat_ushiftRight, hmask, Nat.and_two_pow_sub_one_eq_mod]

/-- Clearing the top t bits leaves a byte alone exactly when they are 0. -/
theorem and_mask_eq_self_iff {t : Nat} (ht : t ≤ 8) (b : Byte) :
    b &&& ((0xFF : Byte) >>> t) = b ↔ b >>> (8 - t) = 0 := by
  rw [← BitVec.toNat_inj, ← BitVec.toNat_inj, toNat_and_mask ht, BitVec.toNat_ushiftRight, Nat.shiftRight_eq_div_pow,
    Nat.mod_eq_iff_lt (by positivity)]
  exact (Nat.div_eq_zero_iff_lt (by positivity)).symm

/-- The check of R177 on the first byte: the string's top t bits are 0. -/
theorem clearTopBits_eq_self_iff {t : Nat} (ht : t ≤ 8) (x : Bytes) :
    clearTopBits t x = x ↔ x.getD 0 0 >>> (8 - t) = 0 := by
  cases x with
  | nil => simp [clearTopBits]
  | cons b x => rw [clearTopBits, List.cons_eq_cons, and_iff_left rfl, and_mask_eq_self_iff ht, List.getD_cons_zero]

theorem xorBytes_cancel {x y : Bytes} (h : x.length = y.length) : xorBytes (xorBytes x y) y = x := by
  refine List.ext_getElem (by simp [h]) fun j _ _ => ?_
  simp only [xorBytes, List.getElem_zipWith, BitVec.xor_assoc, BitVec.xor_self, BitVec.xor_zero]

theorem and_xor_xor_cancel (a b k : Byte) : (((a ^^^ b) &&& k) ^^^ b) &&& k = a &&& k := by
  ext i
  simp only [BitVec.getElem_and, BitVec.getElem_xor]
  cases a[i] <;> cases b[i] <;> cases k[i] <;> rfl

theorem clearTopBits_idem (t : Nat) (x : Bytes) : clearTopBits t (clearTopBits t x) = clearTopBits t x := by
  cases x with
  | nil => rfl
  | cons b x => rw [clearTopBits, clearTopBits, BitVec.and_assoc, BitVec.and_self]

/-- XORing a string twice with the same mask gives the string back, and the bits cleared in between stay cleared. -/
theorem clearTopBits_xorBytes_cancel (t : Nat) {x y : Bytes} (h : x.length = y.length) :
    clearTopBits t (xorBytes (clearTopBits t (xorBytes x y)) y) = clearTopBits t x := by
  rcases x with _ | ⟨a, x⟩ <;> rcases y with _ | ⟨b, y⟩
  case nil.nil | nil.cons | cons.nil => simp [xorBytes, clearTopBits] at h ⊢
  case cons.cons => exact List.cons_eq_cons.2 ⟨and_xor_xor_cancel a b _, xorBytes_cancel (Nat.succ_inj.1 h)⟩

/-- A string whose top t bits are 0 and its masked form determine each other. -/
theorem eq_clearTopBits_xorBytes_comm {t : Nat} {x y z : Bytes} (hx : x.length = y.length) (hz : z.length = y.length)
    (hxt : clearTopBits t x = x) (hzt : clearTopBits t z = z) :
    z = clearTopBits t (xorBytes x y) ↔ clearTopBits t (xorBytes z y) = x := by
  constructor
  · rintro rfl
    rw [clearTopBits_xorBytes_cancel t hx, hxt]
  · rintro rfl
    rw [clearTopBits_xorBytes_cancel t hz, hzt]

theorem os2ip_append_lt {x : Bytes} {a : Nat} (h : os2ip x < a) (y : Bytes) :
    os2ip (x ++ y) < a * 256 ^ y.length := by
  rw [os2ip_append]
  nlinarith [os2ip_lt y]

/-- The value of a string whose top t bits were cleared. -/
theorem os2ip_clearTopBits_lt {t n : Nat} {x : Bytes} (ht : t ≤ 8) (hx : x.length = n + 1) :
    os2ip (clearTopBits t x) < 2 ^ (8 * (n + 1) - t) := by
  obtain ⟨b, x, rfl⟩ := List.exists_cons_of_length_eq_add_one hx
  have hb : os2ip [b &&& ((0xFF : Byte) >>> t)] < 2 ^ (8 - t) := by
    rw [os2ip_cons, List.length_nil, pow_zero, mul_one, os2ip_nil, add_zero, toNat_and_mask ht]
    exact Nat.mod_lt _ (by positivity)
  have hsplit : 2 ^ (8 * (n + 1) - t) = 2 ^ (8 - t) * 256 ^ x.length := by
    rw [Nat.succ_inj.1 hx, show 8 * (n + 1) - t = (8 - t) + 8 * n by omega, pow_add, pow_mul]
    rfl
  rw [hsplit]
  exact os2ip_append_lt hb x

theorem getElem_clearTopBits (t : Nat) (x : Bytes) (j : Nat) (h : j < (clearTopBits t x).length) :
    (clearTopBits t x)[j] =
      if j = 0 then x[j]'(by simpa using h) &&& ((0xFF : Byte) >>> t) else x[j]'(by simpa using h) := by
  cases x with
  | nil => simp at h
  | cons b x => cases j <;> rfl

/-- The masked string byte by byte, the top bits cleared in byte 0. -/
theorem clearTopBits_xorBytes_eq_map {x y : Bytes} {n : Nat} (t : Nat) (hx : x.length = n) (hy : y.length = n) :
    clearTopBits t (xorBytes x y) = (List.range n).map fun j =>
      if j = 0 then (x.getD j 0 ^^^ y.getD j 0) &&& ((0xFF : Byte) >>> t) else x.getD j 0 ^^^ y.getD j 0 := by
  refine List.ext_getElem (by simp [hx, hy]) fun j hj _ => ?_
  simp only [clearTopBits_length, xorBytes_length, hx, hy, min_self] at hj
  simp only [getElem_clearTopBits, xorBytes, List.getElem_zipWith, List.getElem_map, List.getElem_range,
    List.getD_eq_getElem x 0 (hx ▸ hj), List.getD_eq_getElem y 0 (hy ▸ hj)]

/-! ### The encoding (R175) -/

theorem pssClearedBits_le (modBits : Nat) : pssClearedBits modBits ≤ 7 := by
  unfold pssClearedBits pssEmLen
  omega

/-- The number of zeros in DB, where emLen is long enough for the salt (`43_rsa_padding.md` R175). -/
theorem exists_padding {emLen sLen : Nat} (h : 34 + sLen ≤ emLen) : ∃ k, emLen = k + sLen + 34 :=
  ⟨emLen - sLen - 34, by omega⟩

@[simp] theorem pssDigest_length (m salt : Bytes) : (pssDigest m salt).length = 32 := sha256_length _

/-- DB of R175: k zeros, 01 and the salt. -/
def pssBlock (k : Nat) (salt : Bytes) : Bytes := List.replicate k 0x00 ++ 0x01 :: salt

@[simp] theorem pssBlock_length (k : Nat) (salt : Bytes) : (pssBlock k salt).length = k + salt.length + 1 := by
  simp [pssBlock, Nat.add_assoc]

/-- The bits that R175 clears are 0 in DB, since its first byte is 00 or 01 and fewer than eight bits are cleared. -/
theorem clearTopBits_pssBlock {t : Nat} (ht : t ≤ 7) (k : Nat) (salt : Bytes) :
    clearTopBits t (pssBlock k salt) = pssBlock k salt := by
  rw [clearTopBits_eq_self_iff (by omega)]
  have hsmall : (0x01 : Byte) >>> (8 - t) = 0 := by
    revert t
    decide
  cases k with
  | zero => exact hsmall
  | succ k => simp [pssBlock, List.replicate_succ]

/-- maskedDB of R175, DB masked with the MGF1 of a digest. -/
def pssMasked (modBits k : Nat) (salt digest : Bytes) : Bytes :=
  clearTopBits (pssClearedBits modBits) (xorBytes (pssBlock k salt) (mgf1 digest (k + salt.length + 1)))

@[simp] theorem pssMasked_length (modBits k : Nat) (salt digest : Bytes) :
    (pssMasked modBits k salt digest).length = k + salt.length + 1 := by
  simp [pssMasked]

/-- EncPSS where emLen leaves k zeros in DB: maskedDB, the digest and BC. -/
theorem pssText_eq {modBits k : Nat} {salt : Bytes} (m : Bytes) (hlen : pssEmLen modBits = k + salt.length + 34) :
    pssText m salt modBits = pssMasked modBits k salt (pssDigest m salt) ++ pssDigest m salt ++ [0xBC] := by
  rw [pssMasked, clearTopBits_xorBytes_eq_map _ (pssBlock_length k salt) (mgf1_length _ _), mgf1_eq_maskText,
    show k + salt.length + 1 = pssEmLen modBits - 33 by omega,
    show k = pssEmLen modBits - salt.length - 34 by omega]
  rfl

theorem encPss_eq_ok {salt : Bytes} {sLen modBits : Nat} (m : Bytes) (hs : salt.length = sLen)
    (h : 34 + sLen ≤ pssEmLen modBits) : encPss m sLen modBits salt = .ok (pssText m salt modBits) := by
  subst hs
  obtain ⟨k, hk⟩ := exists_padding h
  rw [pssText_eq m hk]
  simp only [encPss, hk, hLen]
  rw [if_neg (by omega), show k + salt.length + 34 - salt.length - 32 - 2 = k by omega,
    show k + salt.length + 34 - 32 - 1 = k + salt.length + 1 by omega, List.append_assoc (zeros k)]
  rfl

theorem pssText_length {salt : Bytes} {modBits : Nat} (m : Bytes) (h : 34 + salt.length ≤ pssEmLen modBits) :
    (pssText m salt modBits).length = pssEmLen modBits :=
  encPss_length rfl (encPss_eq_ok m rfl h)

/-- An encoding has at most modBits bits: R175 clears the others of its emLen bytes. -/
theorem os2ip_pssText_lt {salt : Bytes} {modBits : Nat} (m : Bytes) (h : 34 + salt.length ≤ pssEmLen modBits) :
    os2ip (pssText m salt modBits) < 2 ^ modBits := by
  obtain ⟨k, hk⟩ := exists_padding h
  have hmasked : os2ip (pssMasked modBits k salt (pssDigest m salt)) <
      2 ^ (8 * (k + salt.length + 1) - pssClearedBits modBits) :=
    os2ip_clearTopBits_lt ((pssClearedBits_le modBits).trans (by decide)) (by simp)
  have hbits : 8 * (k + salt.length + 1) - pssClearedBits modBits + 8 * (32 + 1) = modBits := by
    unfold pssClearedBits pssEmLen at *
    omega
  have htext := os2ip_append_lt hmasked (pssDigest m salt ++ [0xBC])
  rwa [List.length_append, pssDigest_length, List.length_singleton, show 256 = 2 ^ 8 from rfl, ← pow_mul, ← pow_add,
    hbits, ← List.append_assoc, ← pssText_eq m hk] at htext

/-! ### The checks of a decoder (R177) -/

/-- A check of R177 that answers false. -/
theorem reject_iff {p : Prop} [Decidable p] {b : Bool} : (if p then false else b) = true ↔ ¬ p ∧ b = true := by
  by_cases h : p <;> simp [h]

/-- Checks 6 and 7 of R177: k zeros and 01 in front leave the salt as the last bytes of DB. -/
theorem eq_pssBlock_iff {db salt : Bytes} {k sLen : Nat} (hdb : db.length = k + sLen + 1) :
    db = pssBlock k salt ↔ slice db 0 k = zeros k ∧ db.getD k 0 = 0x01 ∧ db.drop (db.length - sLen) = salt := by
  rw [hdb, show k + sLen + 1 - sLen = k + 1 by omega]
  constructor
  · rintro rfl
    refine ⟨?_, ?_, ?_⟩
    · simp [pssBlock, slice, zeros, repeatByte]
    · simp [pssBlock]
    · simp [pssBlock, List.drop_append]
  · rintro ⟨hzeros, hone, rfl⟩
    rw [List.getD_eq_getElem _ _ (by omega)] at hone
    rw [pssBlock, ← hone, List.cons_getElem_drop_succ]
    exact (List.take_append_drop k db).symm.trans (congrArg (· ++ db.drop k) hzeros)

/-- The checks of R177 on a string cut as R175 joins an encoding: the last byte, the bits that R175 clears, DB behind
the mask, and the digest. -/
theorem verPss_append_iff {modBits k sLen : Nat} {masked h : Bytes} {b : Byte} (m : Bytes)
    (hlen : pssEmLen modBits = k + sLen + 34) (hmasked : masked.length = k + sLen + 1) (hh : h.length = 32) :
    verPss m (masked ++ h ++ [b]) sLen modBits = true ↔
      b = 0xBC ∧ clearTopBits (pssClearedBits modBits) masked = masked ∧
        ∃ salt, clearTopBits (pssClearedBits modBits) (xorBytes masked (mgf1 h (k + sLen + 1))) = pssBlock k salt ∧
          pssDigest m salt = h := by
  have ht := (pssClearedBits_le modBits).trans (show 7 ≤ 8 by decide)
  have hn : k + sLen + 34 - hLen - 1 = k + sLen + 1 := by simp [hLen]
  have hk : k + sLen + 34 - hLen - sLen - 2 = k := by simp only [hLen]; omega
  have hlong : ¬ k + sLen + 34 < hLen + sLen + 2 := by simp only [hLen]; omega
  have hem : (masked ++ h ++ [b]).length = k + sLen + 34 := by simp [hmasked, hh]
  have hlast : (masked ++ h ++ [b]).getD (k + sLen + 34 - 1) 0 = b := by
    rw [List.getD_append_right _ _ _ _ (by simp [hmasked, hh])]
    simp [hmasked, hh]
  have hfront : slice (masked ++ h ++ [b]) 0 (k + sLen + 1) = masked := by simp [slice, ← hmasked]
  have hmid : slice (masked ++ h ++ [b]) (k + sLen + 1) hLen = h := by simp [slice, hLen, ← hmasked, ← hh]
  have hdb : (clearTopBits (pssClearedBits modBits) (xorBytes masked (mgf1 h (k + sLen + 1)))).length =
      k + sLen + 1 := by simp [hmasked]
  simp only [verPss, reject_iff, not_not, hlen, hn, hk, hlong, hem, hlast, hfront, hmid, not_false_eq_true, true_and,
    ← clearTopBits_eq_self_iff ht, eq_pssBlock_iff hdb, bytesEqual, beq_iff_eq, and_assoc, exists_and_left,
    exists_eq_left']

/-- A string of n + 33 bytes as R175 joins an encoding: n bytes, a digest and one byte. -/
theorem exists_pssParts {em : Bytes} {n : Nat} (h : em.length = n + 33) :
    ∃ masked digest b, em = masked ++ digest ++ [b] ∧ masked.length = n ∧ digest.length = 32 := by
  obtain ⟨b, hb⟩ := List.length_eq_one_iff.1 (show (em.drop (n + 32)).length = 1 by simp [h])
  refine ⟨em.take n, (em.drop n).take 32, b, ?_, by simp [h], by simp [h]⟩
  rw [← hb, ← List.take_add, List.take_append_drop]

/-- VerPSS accepts exactly the encodings of the message (`43_rsa_padding.md` R177): the checks undo the steps of R175
one by one. -/
theorem verPss_iff (m em : Bytes) (sLen modBits : Nat) :
    verPss m em sLen modBits = true ↔
      34 + sLen ≤ pssEmLen modBits ∧ ∃ salt : Bytes, salt.length = sLen ∧ em = pssText m salt modBits := by
  have ht := pssClearedBits_le modBits
  constructor
  case mp =>
    intro h
    obtain ⟨hem, hlong⟩ : em.length = pssEmLen modBits ∧ 34 + sLen ≤ pssEmLen modBits := by
      simp only [verPss, reject_iff, not_not] at h
      obtain ⟨hem, hshort, -⟩ := h
      rw [hLen] at hshort
      exact ⟨hem, by omega⟩
    obtain ⟨k, hk⟩ := exists_padding hlong
    obtain ⟨masked, digest, b, rfl, hmasked, hdigest⟩ := exists_pssParts (hem.trans hk)
    obtain ⟨rfl, hclear, salt, hdb, rfl⟩ := (verPss_append_iff m hk hmasked hdigest).1 h
    obtain rfl : salt.length = sLen := by
      have hlen := congrArg List.length hdb
      simp only [clearTopBits_length, xorBytes_length, mgf1_length, hmasked, min_self, pssBlock_length] at hlen
      omega
    refine ⟨hlong, salt, rfl, ?_⟩
    rw [pssText_eq m hk, pssMasked, ← (eq_clearTopBits_xorBytes_comm (by simp) (by simp [hmasked])
      (clearTopBits_pssBlock ht k salt) hclear).2 hdb]
  case mpr =>
    rintro ⟨hlong, salt, rfl, rfl⟩
    obtain ⟨k, hk⟩ := exists_padding hlong
    rw [pssText_eq m hk, verPss_append_iff m hk (pssMasked_length _ _ _ _) (pssDigest_length _ _)]
    refine ⟨rfl, ?_, salt, ?_, rfl⟩
    · exact clearTopBits_idem _ _
    · exact (eq_clearTopBits_xorBytes_comm (by simp) (by simp) (clearTopBits_pssBlock ht k salt)
        (clearTopBits_idem _ _)).1 rfl

/-! ### EMSA_PSS_ENCODE (R176) -/

/-- The salt of n bytes: the operand at `addr` when X = 1, else the RNG's draw. -/
def pssSalt (x : Bool) (m : Memory) (addr : Word) (draw n : Nat) : Bytes :=
  if x then m.read addr.toNat n else rngBytes draw n

@[simp] theorem pssSalt_length (x : Bool) (m : Memory) (addr : Word) (draw n : Nat) :
    (pssSalt x m addr draw n).length = n := by
  cases x <;> simp [pssSalt]

/-- The rule of EMSA_PSS_ENCODE once its regions pass the checks. -/
theorem runEmsaPssEncode_of_checks {c : InFlight} (draw : Nat) (m : Memory)
    (h : ChecksPass .emsaPssEncode c.args c.extRand) :
    runEmsaPssEncode (rngBytes draw) c m =
      if pssEmLen c.args.a3.toNat < 34 + c.args.a2.toNat then .noDraw (.error .encError)
      else
        { result := okBytes c.args.a4.toNat (pssText (m.read c.args.a0.toNat c.args.a1.toNat)
            (pssSalt c.extRand m c.args.a5 draw c.args.a2.toNat) c.args.a3.toNat)
          draws := if c.extRand then 0 else 1 } := by
  have hbounds := allInBounds_external (allInBounds_operands h.1)
  have hapart := overlapsAny_external (overlapsAny_operands h.2 rfl)
  refine (check_passes hbounds).trans ((overlap_passes hapart).trans ?_)
  by_cases hshort : pssEmLen c.args.a3.toNat < 34 + c.args.a2.toNat
  · rw [if_pos hshort]
    exact if_pos (by simp only [regionOf]; omega)
  · rw [if_neg hshort]
    have henc := encPss_eq_ok (m.read c.args.a0.toNat c.args.a1.toNat)
      (pssSalt_length c.extRand m c.args.a5 draw c.args.a2.toNat) (Nat.not_lt.1 hshort)
    refine (if_neg (by simp only [regionOf]; omega)).trans ?_
    simp only [pssSalt] at henc ⊢
    simp only [Memory.fetch, region, regionOf, henc]

/-- Settles O40: past the checks the rule compares emLen with saltLen + 34 before the draw, and then writes the
encoding. -/
theorem emsaPssEncodeResult : Obligations.EmsaPssEncodeResult := by
  intro s c hc hchecks
  have hrule := runEmsaPssEncode_of_checks s.rngDraws s.dmem hchecks
  refine ⟨fun hshort => ?short, fun hlong => ⟨fun hX => ?operand, fun hX => ?draw⟩⟩
  case short => exact exec_eq_failed (i := .emsaPssEncode) hc (hrule.trans (if_pos hshort))
  case operand | draw =>
    have hrule := hrule.trans (if_neg hlong.not_gt)
    rw [hX] at hrule
    exact exec_eq_succeeded (i := .emsaPssEncode) hc hrule

/-! ### EMSA_PSS_VERIFY (R178) -/

/-- The rule of EMSA_PSS_VERIFY once its regions pass the checks. -/
theorem runEmsaPssVerify_of_checks {c : InFlight} (m : Memory) (h : ChecksPass .emsaPssVerify c.args c.extRand) :
    runEmsaPssVerify c m =
      okValid (verPss (m.read c.args.a0.toNat c.args.a1.toNat) (m.read c.args.a4.toNat c.args.a5.toNat)
        c.args.a2.toNat c.args.a3.toNat) :=
  check_passes (b := allInBounds [region c.args.a0 c.args.a1, region c.args.a4 c.args.a5]) (allInBounds_operands h.1)

/-- Settles O41: past the checks the rule decodes, which accepts exactly the encodings of the message. -/
theorem emsaPssVerifyResult : Obligations.EmsaPssVerifyResult := by
  intro s c hc hchecks
  have hrule := congrArg Completion.noDraw (runEmsaPssVerify_of_checks s.dmem hchecks)
  exact ⟨_, exec_eq_answered (i := .emsaPssVerify) hc hrule, verPss_iff _ _ _ _⟩

end Sys2Proof.Proofs
end

section
/-! RS256 (`44_rsa_engine.md` R207, R208): the commands RS256_SIGN and RS256_VERIFY. -/

namespace Sys2Proof.Proofs

open Sys2Proof.Machine Sys2Proof.Claims

/-! ### RS256_SIGN (R207) -/

/-- The rule of RS256_SIGN once its key length and its regions pass the checks. -/
theorem runRs256Sign_of_checks {c : InFlight} {m : Memory} {n d em : Nat}
    (h : ChecksPass .rs256Sign c.args c.extRand) (hn : n = os2ip (m.read c.args.a1.toNat (kLen c.args)))
    (hd : d = os2ip (m.read c.args.a2.toNat (kLen c.args)))
    (hem : em = os2ip (pkcs1Text (sha256 (m.read c.args.a3.toNat c.args.a4.toNat)) (kLen c.args))) :
    runRs256Sign c m =
      if n = 0 then .error .badKey
      else if kLen c.args < 62 then .error .encTooShort
      else if n ≤ em then .error .repOutOfRange
      else okBytes c.args.a5.toNat (i2osp (em ^ d % n) (kLen c.args)) := by
  subst hn hd hem
  have hbounds : allInBounds [regionOf c.args.a1 (kLen c.args), regionOf c.args.a2 (kLen c.args),
      region c.args.a3 c.args.a4, regionOf c.args.a5 (kLen c.args)] = true := allInBounds_operands h.1
  have hapart : (regionOf c.args.a5 (kLen c.args)).overlapsAny [regionOf c.args.a1 (kLen c.args),
      regionOf c.args.a2 (kLen c.args), region c.args.a3 c.args.a4] = false := overlapsAny_operands h.2 rfl
  refine (check_passes (bitLengthOk_of_checks rfl h)).trans
    ((check_passes hbounds).trans ((overlap_passes hapart).trans (if_congr Iff.rfl rfl ?_)))
  simp only [rs256Encode, encPkcs1_eq, rsasp1_eq, Memory.fetchInt, Memory.fetch, region, regionOf]
  by_cases hshort : kLen c.args < 62
  · simp only [if_pos hshort]
  simp only [if_neg hshort]
  by_cases hrange : os2ip (m.read c.args.a1.toNat (kLen c.args)) ≤
      os2ip (pkcs1Text (sha256 (m.read c.args.a3.toNat c.args.a4.toNat)) (kLen c.args))
  · simp only [if_pos hrange]
  · simp only [if_neg hrange]

/-- Settles O46: past the checks the rule makes its own ones in order; the signature is below n, so it has the value of
the power. -/
theorem rs256SignResult : Obligations.Rs256SignResult := by
  intro s c n d em hc hchecks hn hd hem
  have hrule := congrArg Completion.noDraw (runRs256Sign_of_checks hchecks hn hd hem)
  refine ⟨fun hzero => ?badKey, fun hpos hshort => ?tooShort, fun hpos hlong hrange => ?outOfRange,
    fun hlong hrange => ?signs⟩
  case badKey =>
    rw [if_pos hzero] at hrule
    exact exec_eq_failed (i := .rs256Sign) hc hrule
  case tooShort =>
    rw [if_neg hpos, if_pos hshort] at hrule
    exact exec_eq_failed (i := .rs256Sign) hc hrule
  case outOfRange =>
    rw [if_neg hpos, if_neg hlong.not_gt, if_pos hrange] at hrule
    exact exec_eq_failed (i := .rs256Sign) hc hrule
  case signs =>
    have hpos : 0 < n := Nat.zero_lt_of_lt hrange
    rw [if_neg hpos.ne', if_neg hlong.not_gt, if_neg hrange.not_ge] at hrule
    exact ⟨_, i2osp_length _ _, os2ip_i2osp_of_lt (pow_mod_lt_of_read hn hpos em d),
      exec_eq_succeeded (i := .rs256Sign) hc hrule⟩

/-! ### RS256_VERIFY (R208) -/

/-- The rule of RS256_VERIFY once its key length and its regions pass the checks. -/
theorem runRs256Verify_of_checks {c : InFlight} {m : Memory} {n e em sig : Nat}
    (h : ChecksPass .rs256Verify c.args c.extRand) (hn : n = os2ip (m.read c.args.a1.toNat (kLen c.args)))
    (he : e = os2ip (m.read c.args.a2.toNat (kLen c.args)))
    (hem : em = os2ip (pkcs1Text (sha256 (m.read c.args.a3.toNat c.args.a4.toNat)) (kLen c.args)))
    (hsig : sig = os2ip (m.read c.args.a5.toNat (kLen c.args))) :
    runRs256Verify c m =
      if n = 0 then .error .badKey
      else if c.args.a6.toNat ≠ kLen c.args then .error .sigLength
      else if kLen c.args < 62 then .error .encTooShort
      else if n ≤ sig then .error .repOutOfRange
      else okValid (decide (sig ^ e % n = em)) := by
  subst hn he hem hsig
  have hbounds : allInBounds [regionOf c.args.a1 (kLen c.args), regionOf c.args.a2 (kLen c.args),
      region c.args.a3 c.args.a4, region c.args.a5 c.args.a6] = true := allInBounds_operands h.1
  refine (check_passes (bitLengthOk_of_checks rfl h)).trans
    ((check_passes hbounds).trans (ite_congr rfl (fun _ => rfl) fun hpos =>
      ite_congr rfl (fun _ => rfl) fun hlen => ?_))
  have hlen : c.args.a6.toNat = kLen c.args := not_not.1 hlen
  simp only [rs256Encode, encPkcs1_eq, rsavp1_eq, Memory.fetchInt, Memory.fetch, region, regionOf, hlen]
  by_cases hshort : kLen c.args < 62
  · simp only [if_pos hshort]
  simp only [if_neg hshort]
  by_cases hrange : os2ip (m.read c.args.a1.toNat (kLen c.args)) ≤ os2ip (m.read c.args.a5.toNat (kLen c.args))
  · simp only [if_pos hrange]
  simp only [if_neg hrange]
  refine congrArg okValid (Bool.eq_iff_iff.2 ?_)
  rw [bytesEqual, beq_iff_eq, decide_eq_true_iff, eq_comm]
  exact i2osp_eq_iff (pkcs1Text_length (sha256_length _) (Nat.not_lt.1 hshort))
    (pow_mod_lt_of_read rfl (Nat.pos_of_ne_zero hpos) _ _)

/-- Settles O47: past the checks the rule makes its own ones in order, and the comparison of strings of kLen bytes is
one of their values. -/
theorem rs256VerifyResult : Obligations.Rs256VerifyResult := by
  intro s c n e em sig hc hchecks hn he hem hsig
  have hrule := congrArg Completion.noDraw (runRs256Verify_of_checks hchecks hn he hem hsig)
  refine ⟨fun hzero => ?badKey, fun hpos hlen => ?sigLength, fun hpos hlen hshort => ?tooShort,
    fun hpos hlen hlong hrange => ?outOfRange, fun hlen hlong hrange => ?verifies⟩
  case badKey =>
    rw [if_pos hzero] at hrule
    exact exec_eq_failed (i := .rs256Verify) hc hrule
  case sigLength =>
    rw [if_neg hpos, if_pos hlen] at hrule
    exact exec_eq_failed (i := .rs256Verify) hc hrule
  case tooShort =>
    rw [if_neg hpos, if_neg (not_not.2 hlen), if_pos hshort] at hrule
    exact exec_eq_failed (i := .rs256Verify) hc hrule
  case outOfRange =>
    rw [if_neg hpos, if_neg (not_not.2 hlen), if_neg hlong.not_gt, if_pos hrange] at hrule
    exact exec_eq_failed (i := .rs256Verify) hc hrule
  case verifies =>
    rw [if_neg (Nat.ne_zero_of_lt hrange), if_neg (not_not.2 hlen), if_neg hlong.not_gt, if_neg hrange.not_ge] at hrule
    exact ⟨_, exec_eq_answered (i := .rs256Verify) hc hrule, decide_eq_true_iff⟩

end Sys2Proof.Proofs
end

section
/-! PS256 (`44_rsa_engine.md` R209 to R211): the commands PS256_SIGN and PS256_VERIFY. -/

namespace Sys2Proof.Proofs

open Sys2Proof.Machine Sys2Proof.Claims

/-- An encoding of bitLength − 1 bits has kLen bytes (`44_rsa_engine.md` R209). -/
theorem pssEmLen_of_keyLengthOk {A : Args} (h : KeyLengthOk A) : pssEmLen (A.a0.toNat - 1) = kLen A := by
  unfold pssEmLen kLen
  omega

/-! ### PS256_SIGN (R210) -/

/-- The rule of PS256_SIGN once its key length and its regions pass the checks. -/
theorem runPs256Sign_of_checks {c : InFlight} {m : Memory} {n d em draw : Nat}
    (h : ChecksPass .ps256Sign c.args c.extRand) (hn : n = os2ip (m.read c.args.a1.toNat (kLen c.args)))
    (hd : d = os2ip (m.read c.args.a2.toNat (kLen c.args)))
    (hem : em = os2ip (pssText (m.read c.args.a3.toNat c.args.a4.toNat) (pssSalt c.extRand m c.args.a6 draw 32)
      (c.args.a0.toNat - 1))) :
    runPs256Sign (rngBytes draw) c m =
      if n = 0 then .noDraw (.error .badKey)
      else if kLen c.args < 66 then .noDraw (.error .encError)
      else
        { result :=
            if n ≤ em then .error .repOutOfRange else okBytes c.args.a5.toNat (i2osp (em ^ d % n) (kLen c.args))
          draws := if c.extRand then 0 else 1 } := by
  subst hn hd
  have hbounds := allInBounds_external (allInBounds_operands h.1)
  have hapart := overlapsAny_external (overlapsAny_operands h.2 rfl)
  refine (check_passes (bitLengthOk_of_checks rfl h)).trans ((check_passes hbounds).trans
    ((overlap_passes hapart).trans (if_congr Iff.rfl rfl (ite_congr rfl (fun _ => rfl) fun hlong => ?_))))
  have henc := encPss_eq_ok (m.read c.args.a3.toNat c.args.a4.toNat) (pssSalt_length c.extRand m c.args.a6 draw 32)
    ((Nat.not_lt.1 hlong).trans_eq (pssEmLen_of_keyLengthOk (h.1.1 rfl)).symm)
  simp only [pssSalt] at henc hem
  simp only [rsasp1_eq, Memory.fetchInt, Memory.fetch, region, regionOf, ps256SaltLen, henc, ← hem]
  by_cases hrange : os2ip (m.read c.args.a1.toNat (kLen c.args)) ≤ em
  · simp only [if_pos hrange]
  · simp only [if_neg hrange]

/-- Settles O48: past the checks the rule makes its own ones in order, the range check after the draw; the bits that
R175 clears leave an encoding below 2^(bitLength − 1). -/
theorem ps256SignResult : Obligations.Ps256SignResult := by
  intro s c n d em draws hc hchecks hn hd hem hdraws
  have hrule := runPs256Sign_of_checks (draw := s.rngDraws) hchecks hn hd hem
  rw [← hdraws] at hrule
  refine ⟨fun hzero => ?badKey, fun hpos hshort => ?tooShort, fun hpos hlong hrange => ?outOfRange,
    fun hlong hrange => ?signs, fun hlong => ?encodingBits⟩
  case badKey =>
    rw [if_pos hzero] at hrule
    exact exec_eq_failed (i := .ps256Sign) hc hrule
  case tooShort =>
    rw [if_neg hpos, if_pos hshort] at hrule
    exact exec_eq_failed (i := .ps256Sign) hc hrule
  case outOfRange =>
    rw [if_neg hpos, if_neg hlong.not_gt, if_pos hrange] at hrule
    exact exec_eq_failed (i := .ps256Sign) hc hrule
  case signs =>
    have hpos : 0 < n := Nat.zero_lt_of_lt hrange
    rw [if_neg hpos.ne', if_neg hlong.not_gt, if_neg hrange.not_ge] at hrule
    exact ⟨_, i2osp_length _ _, os2ip_i2osp_of_lt (pow_mod_lt_of_read hn hpos em d),
      exec_eq_succeeded (i := .ps256Sign) hc hrule⟩
  case encodingBits =>
    rw [hem]
    refine os2ip_pssText_lt _ ?_
    rw [pssEmLen_of_keyLengthOk (hchecks.1.1 rfl)]
    exact (congrArg (34 + ·) (pssSalt_length c.extRand s.dmem c.args.a6 s.rngDraws 32)).trans_le hlong

/-! ### PS256_VERIFY (R211) -/

/-- The rule of PS256_VERIFY once its key length and its regions pass the checks. -/
theorem runPs256Verify_of_checks {c : InFlight} {m : Memory} {n e sig : Nat}
    (h : ChecksPass .ps256Verify c.args c.extRand) (hn : n = os2ip (m.read c.args.a1.toNat (kLen c.args)))
    (he : e = os2ip (m.read c.args.a2.toNat (kLen c.args)))
    (hsig : sig = os2ip (m.read c.args.a5.toNat (kLen c.args))) :
    runPs256Verify c m =
      if n = 0 then .error .badKey
      else if c.args.a6.toNat ≠ kLen c.args then .error .sigLength
      else if n ≤ sig then .error .repOutOfRange
      else okValid (verPss (m.read c.args.a3.toNat c.args.a4.toNat) (i2osp (sig ^ e % n) (kLen c.args)) 32
        (c.args.a0.toNat - 1)) := by
  subst hn he hsig
  have hbounds : allInBounds [regionOf c.args.a1 (kLen c.args), regionOf c.args.a2 (kLen c.args),
      region c.args.a3 c.args.a4, region c.args.a5 c.args.a6] = true := allInBounds_operands h.1
  refine (check_passes (bitLengthOk_of_checks rfl h)).trans
    ((check_passes hbounds).trans (if_congr Iff.rfl rfl (ite_congr rfl (fun _ => rfl) fun hlen => ?_)))
  have hlen : c.args.a6.toNat = kLen c.args := not_not.1 hlen
  simp only [rsavp1_eq, Memory.fetchInt, Memory.fetch, region, regionOf, hlen]
  by_cases hrange : os2ip (m.read c.args.a1.toNat (kLen c.args)) ≤ os2ip (m.read c.args.a5.toNat (kLen c.args))
  · simp only [if_pos hrange]
  · simp only [if_neg hrange]
    rfl

/-- A value below 256^kLen verifies exactly when it is the value of an encoding with some salt of 32 bytes
(`44_rsa_engine.md` R209, R211). -/
theorem verPss_i2osp_iff {A : Args} {y : Nat} (m : Bytes) (hkey : KeyLengthOk A) (hy : y < 256 ^ kLen A) :
    verPss m (i2osp y (kLen A)) 32 (A.a0.toNat - 1) = true ↔
      66 ≤ kLen A ∧ ∃ salt : Bytes, salt.length = 32 ∧ y = os2ip (pssText m salt (A.a0.toNat - 1)) := by
  have hemLen := pssEmLen_of_keyLengthOk hkey
  rw [verPss_iff, hemLen]
  refine and_congr_right fun hlong => exists_congr fun salt => and_congr_right fun hsalt => ?_
  have hfits : 34 + salt.length ≤ pssEmLen (A.a0.toNat - 1) := by rwa [hemLen, hsalt]
  exact i2osp_eq_iff ((pssText_length m hfits).trans hemLen) hy

/-- Settles O49: past the checks the rule makes its own ones in order and decodes the power, which accepts exactly the
values of encodings of the message. -/
theorem ps256VerifyResult : Obligations.Ps256VerifyResult := by
  intro s c n e sig hc hchecks hn he hsig
  have hrule := congrArg Completion.noDraw (runPs256Verify_of_checks hchecks hn he hsig)
  refine ⟨fun hzero => ?badKey, fun hpos hlen => ?sigLength, fun hpos hlen hrange => ?outOfRange,
    fun hlen hrange => ?verifies⟩
  case badKey =>
    rw [if_pos hzero] at hrule
    exact exec_eq_failed (i := .ps256Verify) hc hrule
  case sigLength =>
    rw [if_neg hpos, if_pos hlen] at hrule
    exact exec_eq_failed (i := .ps256Verify) hc hrule
  case outOfRange =>
    rw [if_neg hpos, if_neg (not_not.2 hlen), if_pos hrange] at hrule
    exact exec_eq_failed (i := .ps256Verify) hc hrule
  case verifies =>
    rw [if_neg (Nat.ne_zero_of_lt hrange), if_neg (not_not.2 hlen), if_neg hrange.not_ge] at hrule
    exact ⟨_, exec_eq_answered (i := .ps256Verify) hc hrule,
      verPss_i2osp_iff _ (hchecks.1.1 rfl) (pow_mod_lt_of_read hn (Nat.zero_lt_of_lt hrange) sig e)⟩

end Sys2Proof.Proofs
end

section
/-! Modular exponentiation (`44_rsa_engine.md` R201) and the commands RSASP1 and RSAVP1 (R202, R203, R205, R206). -/

namespace Sys2Proof.Proofs

open Sys2Proof.Machine Sys2Proof.Claims

/-- Settles O43: by the invariant acc · base^x of square and multiply (`modExpLoop_eq`), with as much fuel as x has
bits. -/
theorem modularExponentiation : Obligations.ModularExponentiation := fun b x n _ => modExp_eq_pow_mod b x n

/-- The rule of RSASP1 and RSAVP1 once the key length and the regions, the same for both, pass the checks: both
primitives are the power mod n of a representative below n (`44_rsa_engine.md` R202, R203). -/
theorem runRsaPrimitive_of_checks {primitive : Nat → Nat → Nat → Except CmdError Nat} {c : InFlight} {m : Memory}
    {n x rep : Nat}
    (hprim : ∀ n' x' m', primitive n' x' m' = if n' ≤ m' then .error .repOutOfRange else .ok (m' ^ x' % n'))
    (h : ChecksPass .rsasp1 c.args c.extRand) (hn : n = os2ip (m.read c.args.a1.toNat (kLen c.args)))
    (hx : x = os2ip (m.read c.args.a2.toNat (kLen c.args)))
    (hrep : rep = os2ip (m.read c.args.a3.toNat (kLen c.args))) :
    runRsaPrimitive primitive c m =
      if n = 0 then .error .badKey
      else if n ≤ rep then .error .repOutOfRange
      else okBytes c.args.a4.toNat (i2osp (rep ^ x % n) (kLen c.args)) := by
  subst hn hx hrep
  have hbounds : allInBounds [regionOf c.args.a1 (kLen c.args), regionOf c.args.a2 (kLen c.args),
      regionOf c.args.a3 (kLen c.args), regionOf c.args.a4 (kLen c.args)] = true := allInBounds_operands h.1
  have hapart : (regionOf c.args.a4 (kLen c.args)).overlapsAny [regionOf c.args.a1 (kLen c.args),
      regionOf c.args.a2 (kLen c.args), regionOf c.args.a3 (kLen c.args)] = false := overlapsAny_operands h.2 rfl
  refine (check_passes (bitLengthOk_of_checks rfl h)).trans
    ((check_passes hbounds).trans ((overlap_passes hapart).trans (if_congr Iff.rfl rfl ?_)))
  simp only [hprim, Memory.fetchInt, Memory.fetch, regionOf]
  by_cases hrange : os2ip (m.read c.args.a1.toNat (kLen c.args)) ≤ os2ip (m.read c.args.a3.toNat (kLen c.args))
  · simp only [if_pos hrange]
  · simp only [if_neg hrange]

/-- Settles O45: past the checks both rules compare the representative with n, and the power is below n, so it has its
value in kLen bytes. -/
theorem rsaPrimitiveResults : Obligations.RsaPrimitiveResults := by
  intro i s c n x m hi hc hchecks hn hx hm
  have hrule : commandRule i s.rngDraws c s.dmem = .noDraw (if n = 0 then .error .badKey
      else if n ≤ m then .error .repOutOfRange
      else okBytes c.args.a4.toNat (i2osp (m ^ x % n) (kLen c.args))) := by
    rcases hi with rfl | rfl
    · exact congrArg Completion.noDraw (runRsaPrimitive_of_checks rsasp1_eq hchecks hn hx hm)
    · exact congrArg Completion.noDraw (runRsaPrimitive_of_checks rsavp1_eq hchecks hn hx hm)
  refine ⟨fun hzero => ?badKey, fun hpos hrange => ?outOfRange, fun hrange => ?power⟩
  case badKey =>
    rw [if_pos hzero] at hrule
    exact exec_eq_failed hc hrule
  case outOfRange =>
    rw [if_neg hpos, if_pos hrange] at hrule
    exact exec_eq_failed hc hrule
  case power =>
    have hpos : 0 < n := Nat.zero_lt_of_lt hrange
    rw [if_neg hpos.ne', if_neg hrange.not_ge] at hrule
    exact ⟨_, i2osp_length _ _, os2ip_i2osp_of_lt (pow_mod_lt_of_read hn hpos m x), exec_eq_succeeded hc hrule⟩

end Sys2Proof.Proofs
end

section
/-! A verifying command accepts what the signing command wrote (`44_rsa_engine.md` R207, R208, R210, R211): the
signature is EM^d mod n, and the verifier raises it to e. -/

namespace Sys2Proof.Proofs

open Sys2Proof.Machine Sys2Proof.Claims

/-! ### A command that succeeded -/

/-- A completion with ERR = 0 is not the record of an error. -/
theorem exec_ne_failed {i : Instr} {s t : State} (h : exec i s = .next t) (herr : t.status.err = false)
    (errcode : Word) (draws : Nat) : exec i s ≠ .next (failed s errcode draws) := by
  intro hfailed
  obtain rfl : t = failed s errcode draws := Host.Outcome.next.inj (h.symm.trans hfailed)
  cases herr

/-- A command that succeeded had passed its operand checks (`60_exceptions.md` R306). -/
theorem checksPass_of_success {i : Instr} {s t : State} {c : InFlight} (hc : s.inflight = some c)
    (h : exec i s = .next t) (herr : t.status.err = false) : ChecksPass i c.args c.extRand := by
  have hok := exec_ne_failed h herr
  obtain ⟨hbadKey, houtOfBounds, hoverlap⟩ := operandChecks i s c hc
  have hkey : KeyPasses i c.args := fun hi => not_not.1 fun hbad => hok _ _ (hbadKey hi hbad)
  have hinside : RegionsInside i c.args c.extRand := not_not.1 fun hout => hok _ _ (houtOfBounds hkey hout)
  exact ⟨hinside, not_not.1 fun hov => hok _ _ (hoverlap hinside hov)⟩

/-- The output region of a success reads as the value of the bytes written. -/
theorem intAt_of_succeeded {i : Instr} {s t : State} {dst : Word} {n y draws : Nat} (h : exec i s = .next t)
    (hwrites : ∃ bytes : Bytes, bytes.length = n ∧ os2ip bytes = y ∧
      exec i s = .next (succeeded s dst bytes draws)) : intAt t dst n = y := by
  obtain ⟨bytes, rfl, rfl, hexec⟩ := hwrites
  obtain rfl := Host.Outcome.next.inj (h.symm.trans hexec)
  exact congrArg os2ip (Memory.read_write_same _ _ _)

/-! ### The verifier's operands -/

/-- The command `k` of the core `u` verifies what the signing command `c` left in `t`: on the same DMEM it names the
key length, the modulus and the message of `c`, and its signature starts where `c` put its output. -/
structure VerifiesOutput (t u : State) (c k : InFlight) : Prop where
  dmem : u.dmem = t.dmem
  bits : k.args.a0 = c.args.a0
  modulus : k.args.a1 = c.args.a1
  message : k.args.a3 = c.args.a3
  messageLen : k.args.a4 = c.args.a4
  signature : k.args.a5 = c.args.a5

theorem VerifiesOutput.kLen_eq {t u : State} {c k : InFlight} (h : VerifiesOutput t u c k) :
    kLen k.args = kLen c.args :=
  congrArg (fun w : Word => w.toNat / 8) h.bits

/-- The verifier reads the modulus and the message that the signing command read, since a command keeps its inputs
(O24), and the signature that it wrote. -/
theorem VerifiesOutput.operands {i : Instr} {s t u : State} {c k : InFlight} (h : VerifiesOutput t u c k)
    (hc : s.inflight = some c) (hsign : exec i s = .next t)
    (hmodulus : (c.args.a1, kLen c.args) ∈ inputs i c.args c.extRand)
    (hmessage : (c.args.a3, c.args.a4.toNat) ∈ inputs i c.args c.extRand) :
    intAt u k.args.a1 (kLen k.args) = intAt s c.args.a1 (kLen c.args) ∧
      textAt u k.args.a3 k.args.a4 = textAt s c.args.a3 c.args.a4 ∧
      intAt u k.args.a5 (kLen k.args) = intAt t c.args.a5 (kLen c.args) := by
  have hkept := inputsAreKept i s t c hc hsign
  refine ⟨?_, ?_, ?_⟩
  · rw [h.kLen_eq, h.modulus, intAt, h.dmem, hkept _ hmodulus]
  · rw [h.message, h.messageLen, textAt, h.dmem, hkept _ hmessage]
  · rw [h.kLen_eq, h.signature, intAt, h.dmem]

/-- Raising the signature EM^d mod n to e gives EM back, for a pair of exponents that belong together. -/
theorem pow_mod_pow_mod_eq {n d e em : Nat} (hkey : ∀ x, x < n → x ^ (d * e) % n = x) (hem : em < n) :
    (em ^ d % n) ^ e % n = em := by
  rw [← Nat.pow_mod, ← pow_mul, hkey em hem]

/-! ### RS256 -/

/-- What a success of RS256_SIGN says: EM fits the key, and the output region holds EM^d mod n (`44_rsa_engine.md`
R207). -/
theorem rs256Sign_of_success {s t : State} {c : InFlight} {n d em : Nat} (hc : s.inflight = some c)
    (hsign : exec .rs256Sign s = .next t) (herr : t.status.err = false) (hn : n = intAt s c.args.a1 (kLen c.args))
    (hd : d = intAt s c.args.a2 (kLen c.args))
    (hem : em = os2ip (pkcs1Text (sha256 (textAt s c.args.a3 c.args.a4)) (kLen c.args))) :
    62 ≤ kLen c.args ∧ em < n ∧ intAt t c.args.a5 (kLen c.args) = em ^ d % n := by
  have hok := exec_ne_failed hsign herr
  obtain ⟨hbadKey, htooShort, houtOfRange, hsigns⟩ :=
    rs256SignResult s c n d em hc (checksPass_of_success hc hsign herr) hn hd hem
  have hpos : n ≠ 0 := fun hzero => hok _ _ (hbadKey hzero)
  have hlong : 62 ≤ kLen c.args := Nat.not_lt.1 fun hshort => hok _ _ (htooShort hpos hshort)
  have hrange : em < n := Nat.not_le.1 fun hlarge => hok _ _ (houtOfRange hpos hlong hlarge)
  exact ⟨hlong, hrange, intAt_of_succeeded hsign (hsigns hlong hrange)⟩

/-- Settles O50: the verifier reads the signer's modulus and message and the signature EM^d mod n, whose power is the EM
that it forms again. -/
theorem rs256VerifiesItsOwn : Obligations.Rs256VerifiesItsOwn := by
  intro s t u c k hc hsign herr hk hdmem hinside h0 h1 h3 h4 h5 h6 hkey
  obtain ⟨hlong, hrange, hwritten⟩ := rs256Sign_of_success hc hsign herr rfl rfl rfl
  have hsame : VerifiesOutput t u c k := ⟨hdmem, h0, h1, h3, h4, h5⟩
  obtain ⟨hmodulus, hmessage, hsignature⟩ := hsame.operands hc hsign (by simp [inputs]) (by simp [inputs])
  obtain ⟨-, -, -, -, hverifies⟩ := rs256VerifyResult u k _ _ _ _ hk ⟨hinside, nofun⟩ hmodulus.symm
    rfl (by rw [hmessage, hsame.kLen_eq]) (hsignature.trans hwritten).symm
  rw [hsame.kLen_eq] at hverifies
  obtain ⟨v, hexec, hv⟩ := hverifies h6 hlong (Nat.mod_lt _ (Nat.zero_lt_of_lt hrange))
  rw [hexec, hv.2 (pow_mod_pow_mod_eq hkey hrange)]

/-! ### PS256 -/

/-- What a success of PS256_SIGN says: for the salt it took, EM fits the key, and the output region holds EM^d mod n
(`44_rsa_engine.md` R210). -/
theorem ps256Sign_of_success {s t : State} {c : InFlight} {n d em : Nat} (hc : s.inflight = some c)
    (hsign : exec .ps256Sign s = .next t) (herr : t.status.err = false) (hn : n = intAt s c.args.a1 (kLen c.args))
    (hd : d = intAt s c.args.a2 (kLen c.args))
    (hem : em = os2ip (pssText (textAt s c.args.a3 c.args.a4) (pssSalt c.extRand s.dmem c.args.a6 s.rngDraws 32)
      (c.args.a0.toNat - 1))) :
    66 ≤ kLen c.args ∧ em < n ∧ intAt t c.args.a5 (kLen c.args) = em ^ d % n := by
  have hok := exec_ne_failed hsign herr
  obtain ⟨hbadKey, htooShort, houtOfRange, hsigns, -⟩ :=
    ps256SignResult s c n d em _ hc (checksPass_of_success hc hsign herr) hn hd hem rfl
  have hpos : n ≠ 0 := fun hzero => hok _ _ (hbadKey hzero)
  have hlong : 66 ≤ kLen c.args := Nat.not_lt.1 fun hshort => hok _ _ (htooShort hpos hshort)
  have hrange : em < n := Nat.not_le.1 fun hlarge => hok _ _ (houtOfRange hpos hlong hlarge)
  exact ⟨hlong, hrange, intAt_of_succeeded hsign (hsigns hlong hrange)⟩

/-- Settles O51: as O50, and the verifier accepts the encoding with any salt of 32 bytes, so with the one the signer
took. -/
theorem ps256VerifiesItsOwn : Obligations.Ps256VerifiesItsOwn := by
  intro s t u c k hc hsign herr hk hdmem hinside h0 h1 h3 h4 h5 h6 hkey
  obtain ⟨hlong, hrange, hwritten⟩ := ps256Sign_of_success hc hsign herr rfl rfl rfl
  have hsame : VerifiesOutput t u c k := ⟨hdmem, h0, h1, h3, h4, h5⟩
  obtain ⟨hmodulus, hmessage, hsignature⟩ := hsame.operands hc hsign (by simp [inputs]) (by simp [inputs])
  obtain ⟨-, -, -, hverifies⟩ := ps256VerifyResult u k _ _ _ hk ⟨hinside, nofun⟩ hmodulus.symm
    rfl (hsignature.trans hwritten).symm
  rw [hsame.kLen_eq, hmessage, h0] at hverifies
  obtain ⟨v, hexec, hv⟩ := hverifies h6 (Nat.mod_lt _ (Nat.zero_lt_of_lt hrange))
  rw [hexec, hv.2 ⟨hlong, _, pssSalt_length .., pow_mod_pow_mod_eq hkey hrange⟩]

end Sys2Proof.Proofs
end

section
/-! Point operands (`45_ec_point.md` R231, R232), and computations that answer the values a relation allows and end with
one error where it allows none. -/

namespace Sys2Proof.Proofs

open Sys2Proof.Machine Sys2Proof.Claims

/-! ### Computations of a relation -/

/-- The computation answers exactly the values that meet `P`, and can end with no error but `e`. -/
structure Computes {α : Type} (x : Except CmdError α) (e : CmdError) (P : α → Prop) : Prop where
  ok_iff : ∀ a, x = .ok a ↔ P a
  error_eq : ∀ e', x = .error e' → e' = e

theorem Computes.eq_error {α : Type} {x : Except CmdError α} {e : CmdError} {P : α → Prop} (h : Computes x e P)
    (hnone : ∀ a, ¬ P a) : x = .error e := by
  cases hx : x with
  | error e' => rw [h.error_eq e' hx]
  | ok a => exact absurd ((h.ok_iff a).1 hx) (hnone a)

theorem Computes.unique {α : Type} {x : Except CmdError α} {e : CmdError} {P : α → Prop} (h : Computes x e P) {a b : α}
    (ha : P a) (hb : P b) : a = b :=
  Except.ok.inj (((h.ok_iff a).2 ha).symm.trans ((h.ok_iff b).2 hb))

theorem Computes.congr {α : Type} {x : Except CmdError α} {e : CmdError} {P Q : α → Prop} (h : Computes x e P)
    (hPQ : ∀ a, P a ↔ Q a) : Computes x e Q :=
  ⟨fun a => (h.ok_iff a).trans (hPQ a), h.error_eq⟩

theorem computes_ok {α : Type} (a : α) (e : CmdError) : Computes (.ok a) e (fun b => b = a) :=
  ⟨fun _ => by rw [Except.ok.injEq, eq_comm], nofun⟩

theorem computes_error {α : Type} {e : CmdError} {P : α → Prop} (h : ∀ a, ¬ P a) : Computes (.error e) e P :=
  ⟨fun a => iff_of_false nofun (h a), fun _ he => (Except.error.inj he).symm⟩

/-- A sequence of two steps computes the composition of their relations. -/
theorem Computes.bind {α β : Type} {x : Except CmdError α} {f : α → Except CmdError β} {e : CmdError} {P : α → Prop}
    {Q : α → β → Prop} (hx : Computes x e P) (hf : ∀ a, P a → Computes (f a) e (Q a)) :
    Computes (x >>= f) e (fun b => ∃ a, P a ∧ Q a b) := by
  cases hxe : x with
  | error e' =>
    have hnone : ∀ a, ¬ P a := fun a ha => absurd (hxe.symm.trans ((hx.ok_iff a).2 ha)) nofun
    obtain rfl := hx.error_eq e' hxe
    exact computes_error fun b ⟨a, ha, _⟩ => hnone a ha
  | ok a =>
    have hP : ∀ a', P a' ↔ a' = a := fun a' => by
      rw [← hx.ok_iff, hxe, Except.ok.injEq, eq_comm]
    refine (hf a ((hP a).2 rfl)).congr fun b => ?_
    simp [hP]

/-! ### The bytes of a point -/

/-- A sub-string of a region is the region of its bytes. -/
theorem slice_read (m : Memory) (a : Nat) {n i l : Nat} (h : i + l ≤ n) :
    slice (m.read a n) i l = m.read (a + i) l := by
  refine List.ext_getElem (by simp [slice]; omega) fun k _ _ => ?_
  simp only [slice, List.getElem_take, List.getElem_drop, Memory.read_getElem, Nat.add_assoc]

/-- The tag of a point operand is its first byte. -/
theorem pointTag_read (m : Memory) (a : Nat) : pointTag (m.read a 65) = m.byte a := by
  rw [pointTag, List.getD_eq_getElem _ _ (by simp), Memory.read_getElem, Nat.add_zero]

theorem encPoint_eq_pointBytes (p : Point) : encPoint p = pointBytes p := by
  cases p with
  | identity => rw [encPoint, pointBytes, zeros, repeatByte, List.singleton_append]
  | affine x y => rw [encPoint, pointBytes, List.append_assoc, List.singleton_append]

/-- Which affine point an operand spells, in the model's words for its tag and coordinates. -/
theorem spells_affine_iff_coordinates {op : Bytes} (h : op.length = 65) (x y : Nat) :
    Spells op (.affine x y) ↔
      pointTag op = 0x04 ∧ x = pointX op ∧ y = pointY op ∧ x < curveQ ∧ y < curveQ := by
  have hY : slice op 33 32 = op.drop 33 := List.take_of_length_le (by simp [h])
  rw [spells_affine_iff h, pointY, hY]
  rfl

/-- The coordinates of the point are below q. -/
def Reduced : Point → Prop
  | .identity => True
  | .affine x y => x < curveQ ∧ y < curveQ

theorem reduced_of_spells {op : Bytes} {p : Point} (h : Spells op p) : Reduced p := by
  cases p with
  | identity => trivial
  | affine x y =>
    obtain ⟨-, -, -, -, -, -, -, hx, hy⟩ := h
    exact ⟨hx, hy⟩

/-- DecPoint answers the point that an operand spells, and ends with BAD_POINT where it spells none (`45_ec_point.md`
R231, R232). -/
theorem decPoint_computes {op : Bytes} (h : op.length = 65) : Computes (decPoint op) .badPoint (Spells op) := by
  rw [decPoint]
  by_cases h0 : pointTag op = 0x00
  · rw [if_pos h0]
    refine (computes_ok _ _).congr fun p => ?_
    cases p with
    | identity => exact iff_of_true rfl ((spells_identity_iff h).2 h0)
    | affine x y => simp [spells_affine_iff_coordinates h, h0]
  rw [if_neg h0]
  have hidentity : ¬ Spells op .identity := mt (spells_identity_iff h).1 h0
  by_cases hpoint : pointTag op = 0x04 ∧ pointX op < curveQ ∧ pointY op < curveQ
  · obtain ⟨h4, hx, hy⟩ := hpoint
    rw [if_pos h4, if_neg (by rw [not_or, not_le, not_le]; exact ⟨hx, hy⟩)]
    refine (computes_ok _ _).congr fun p => ?_
    cases p with
    | identity => exact iff_of_false nofun hidentity
    | affine x y =>
      rw [spells_affine_iff_coordinates h, Point.affine.injEq]
      constructor
      · rintro ⟨rfl, rfl⟩
        exact ⟨h4, rfl, rfl, hx, hy⟩
      · rintro ⟨-, rfl, rfl, -⟩
        exact ⟨rfl, rfl⟩
  · have hnone : ∀ p, ¬ Spells op p
      | .identity => hidentity
      | .affine x y => by
        rw [spells_affine_iff_coordinates h]
        rintro ⟨h4, rfl, rfl, hx, hy⟩
        exact hpoint ⟨h4, hx, hy⟩
    split
    next h4 =>
      rw [if_pos ((not_and_or.1 fun hlt => hpoint ⟨h4, hlt⟩).imp not_lt.1 not_lt.1)]
      exact computes_error hnone
    next => exact computes_error hnone

end Sys2Proof.Proofs
end

section
/-! The group law of P-256 (`45_ec_point.md` R233, R234): double and add compute the relations of their slope equations,
and the curve is closed under both (R241). -/

namespace Sys2Proof.Proofs

open Sys2Proof.Machine Sys2Proof.Claims

/-! ### Residues and inverses mod q -/

theorem residue_eq_iff {z : Int} {m k : Nat} (hm : 0 < m) : residue z m = k ↔ k < m ∧ (k : Int) ≡ z [ZMOD m] := by
  have hm' : (0 : Int) < m := by omega
  have hnonneg := Int.emod_nonneg z hm'.ne'
  have hlt := Int.emod_lt_of_pos z hm'
  constructor
  · rintro rfl
    rw [residue, Int.toNat_of_nonneg hnonneg]
    exact ⟨by omega, Int.mod_modEq z m⟩
  · rintro ⟨hk, hmod⟩
    rw [residue, ← hmod, Int.emod_eq_of_lt (by omega) (by omega), Int.toNat_natCast]

theorem residue_lt (z : Int) {m : Nat} (hm : 0 < m) : residue z m < m := ((residue_eq_iff hm).1 rfl).1

theorem residue_modEq (z : Int) {m : Nat} (hm : 0 < m) : (residue z m : Int) ≡ z [ZMOD m] :=
  ((residue_eq_iff hm).1 rfl).2

/-- Mod a prime every integer that is no multiple of it has an inverse (`45_ec_point.md` R233; `46_ecdsa.md` R264). -/
theorem exists_modInverse {x p : Nat} (hp : p.Prime) (h : ¬ p ∣ x) :
    ∃ c, modInverse x p = some c ∧ x * c ≡ 1 [MOD p] := by
  cases hinv : modInverse x p with
  | none =>
    have hcop : Nat.Coprime x p := ((Nat.Prime.coprime_iff_not_dvd hp).2 h).symm
    exact absurd hcop ((modInverse_eq_none_iff x hp.pos).1 hinv)
  | some c => exact ⟨c, rfl, (modInverse_some hp.pos hinv).2⟩

theorem not_dvd_of_pos_of_lt {x m : Nat} (hpos : x ≠ 0) (hlt : x < m) : ¬ m ∣ x :=
  Nat.not_dvd_of_pos_of_lt (Nat.pos_of_ne_zero hpos) hlt

/-! ### The chord of a slope -/

theorem thirdPoint_congr {s t : Int} (h : s ≡ t [ZMOD curveQ]) (x y x2 x' y' : Nat) :
    ThirdPoint s x y x2 x' y' ↔ ThirdPoint t x y x2 x' y' := by
  have hx : s ^ 2 - x - x2 ≡ t ^ 2 - x - x2 [ZMOD curveQ] := ((h.pow 2).sub_right _).sub_right _
  have hy : s * (x - x') - y ≡ t * (x - x') - y [ZMOD curveQ] := (h.mul_right _).sub_right _
  exact and_congr_right fun _ => and_congr_right fun _ =>
    and_congr ⟨(·.trans hx), (·.trans hx.symm)⟩ ⟨(·.trans hy), (·.trans hy.symm)⟩

theorem chordPoint_eq_iff (s x y x2 x' y' : Nat) :
    chordPoint s x y x2 = .affine x' y' ↔ ThirdPoint s x y x2 x' y' := by
  have hq := curveQ_prime.pos
  rw [chordPoint, Point.affine.injEq, ThirdPoint, residue_eq_iff hq, pow_two]
  constructor
  · rintro ⟨⟨hx, hx'⟩, hy⟩
    rw [(residue_eq_iff hq).2 ⟨hx, hx'⟩, residue_eq_iff hq] at hy
    exact ⟨hx, hy.1, hx', hy.2⟩
  · rintro ⟨hx, hy, hx', hy'⟩
    rw [(residue_eq_iff hq).2 ⟨hx, hx'⟩, residue_eq_iff hq]
    exact ⟨⟨hx, hx'⟩, hy, hy'⟩

/-- Where the denominator of a slope has an inverse, the quotient is the one slope that meets its equation. -/
theorem chordPoint_eq_iff_exists_slope {m inv : Nat} {num den : Int} (hinv : den * inv ≡ 1 [ZMOD curveQ])
    (hm : (m : Int) ≡ num * inv [ZMOD curveQ]) (x y x2 x' y' : Nat) :
    chordPoint m x y x2 = .affine x' y' ↔
      ∃ s : Int, s * den ≡ num [ZMOD curveQ] ∧ ThirdPoint s x y x2 x' y' := by
  rw [chordPoint_eq_iff]
  constructor
  · intro h
    refine ⟨m, ?_, h⟩
    calc (m : Int) * den ≡ num * inv * den [ZMOD curveQ] := hm.mul_right _
      _ = num * (den * inv) := by ring
      _ ≡ num * 1 [ZMOD curveQ] := hinv.mul_left _
      _ = num := mul_one _
  · rintro ⟨s, hs, h⟩
    refine (thirdPoint_congr (hm.trans ?_) x y x2 x' y').2 h
    calc num * inv ≡ s * den * inv [ZMOD curveQ] := (hs.mul_right _).symm
      _ = s * (den * inv) := by ring
      _ ≡ s * 1 [ZMOD curveQ] := hinv.mul_left _
      _ = s := mul_one _

/-! ### double (R233) -/

theorem pointDouble_y_zero (x : Nat) : pointDouble (.affine x 0) = .error .noInverse := rfl

/-- double of a point with y ≠ 0 answers the third point of the tangent. -/
theorem pointDouble_affine (x : Nat) {y : Nat} (hy : y ≠ 0) (hlt : y < curveQ) :
    ∃ s, pointDouble (.affine x y) = .ok (chordPoint s x y x) ∧
      ∀ r, IsDouble (.affine x y) r ↔ r = chordPoint s x y x := by
  have hprime := curveQ_prime
  have hndvd : ¬ curveQ ∣ 2 * y := fun hdvd => (hprime.dvd_mul.1 hdvd).elim
    (not_dvd_of_pos_of_lt two_ne_zero (by decide)) (not_dvd_of_pos_of_lt hy hlt)
  obtain ⟨inv, hinv, hone⟩ := exists_modInverse hprime hndvd
  have hden : ((2 * y : Int)) * inv ≡ 1 [ZMOD curveQ] := by exact_mod_cast (Int.natCast_modEq_iff.2 hone)
  have hslope : (((3 * x ^ 2 + curveA) * inv % curveQ : Nat) : Int) ≡
      (3 * x ^ 2 + curveA : Int) * inv [ZMOD curveQ] := by
    exact_mod_cast Int.natCast_modEq_iff.2 (Nat.mod_modEq _ _)
  refine ⟨(3 * x ^ 2 + curveA) * inv % curveQ, ?_, fun r => ?_⟩
  · rw [pointDouble, if_neg hy, hinv]
  · cases r with
    | identity => exact iff_of_false id nofun
    | affine x' y' =>
      rw [eq_comm]
      refine Iff.trans ?_ (chordPoint_eq_iff_exists_slope hden hslope x y x x' y').symm
      exact and_iff_right hy

theorem pointDouble_computes {p : Point} (h : Reduced p) : Computes (pointDouble p) .noInverse (IsDouble p) := by
  cases p with
  | identity => exact computes_ok _ _
  | affine x y =>
    rcases eq_or_ne y 0 with rfl | hy
    · refine computes_error fun r hr => ?_
      cases r with
      | identity => exact hr
      | affine x' y' => exact hr.1 rfl
    · obtain ⟨s, hok, hdouble⟩ := pointDouble_affine x hy h.2
      rw [hok]
      exact (computes_ok _ _).congr fun r => (hdouble r).symm

/-- Only a point with y = 0 has no double (`45_ec_point.md` R233). -/
theorem exists_isDouble {p : Point} (h : Reduced p) (hy : ∀ x, p ≠ .affine x 0) : ∃ r, IsDouble p r := by
  cases p with
  | identity => exact ⟨_, rfl⟩
  | affine x y =>
    obtain ⟨s, -, hdouble⟩ := pointDouble_affine x (fun h0 => hy x (h0 ▸ rfl)) h.2
    exact ⟨_, (hdouble _).2 rfl⟩

theorem reduced_of_isDouble {p r : Point} (h : IsDouble p r) : Reduced r := by
  cases p with
  | identity =>
    obtain rfl := h
    trivial
  | affine x y =>
    cases r with
    | identity => trivial
    | affine x' y' =>
      obtain ⟨-, s, -, hx, hy, -⟩ := h
      exact ⟨hx, hy⟩

/-! ### add (R234) -/

theorem isSum_opposite {xp yp xq yq : Nat} (h : xp = xq ∧ (yp + yq) % curveQ = 0) (r : Point) :
    IsSum (.affine xp yp) (.affine xq yq) r ↔ r = .identity :=
  iff_of_eq (if_pos h)

theorem not_isSum_identity {xp yp xq yq : Nat} (hopp : ¬ (xp = xq ∧ (yp + yq) % curveQ = 0))
    (hsame : ¬ (xp = xq ∧ yp = yq)) : ¬ IsSum (.affine xp yp) (.affine xq yq) .identity :=
  of_eq_false ((if_neg hopp).trans (if_neg hsame))

theorem isSum_chord_iff {xp yp xq yq : Nat} (hopp : ¬ (xp = xq ∧ (yp + yq) % curveQ = 0))
    (hsame : ¬ (xp = xq ∧ yp = yq)) (x' y' : Nat) :
    IsSum (.affine xp yp) (.affine xq yq) (.affine x' y') ↔
      xp ≠ xq ∧ ∃ s : Int, s * ((xq : Int) - xp) ≡ (yq : Int) - yp [ZMOD curveQ] ∧ ThirdPoint s xp yp xq x' y' :=
  iff_of_eq ((if_neg hopp).trans (if_neg hsame))

/-- Equal x and not opposite: the sum of equal points is the double, and others have none. -/
theorem isSum_same_x {x yp yq : Nat} (h : ¬ (yp + yq) % curveQ = 0) (r : Point) :
    IsSum (.affine x yp) (.affine x yq) r ↔ yp = yq ∧ IsDouble (.affine x yp) r := by
  have hopp : ¬ (x = x ∧ (yp + yq) % curveQ = 0) := fun hopp => h hopp.2
  by_cases heq : yp = yq
  · rw [and_iff_right heq]
    exact iff_of_eq ((if_neg hopp).trans (if_pos ⟨rfl, heq⟩))
  · have hsame : ¬ (x = x ∧ yp = yq) := fun hsame => heq hsame.2
    refine iff_of_false (fun hsum => ?_) fun hdouble => heq hdouble.1
    cases r with
    | identity => exact not_isSum_identity hopp hsame hsum
    | affine x' y' => exact ((isSum_chord_iff hopp hsame x' y').1 hsum).1 rfl

/-- The second coordinates of opposite points. -/
theorem eq_residue_neg_iff {y z : Nat} (hy : y < curveQ) :
    y = residue (-(z : Int)) curveQ ↔ (y + z) % curveQ = 0 := by
  rw [eq_comm, residue_eq_iff curveQ_prime.pos, and_iff_right hy, Int.modEq_iff_dvd, ← Nat.dvd_iff_mod_eq_zero,
    ← Int.natCast_dvd_natCast, ← Int.dvd_neg, Nat.cast_add]
  ring_nf

/-- add of two points with different x answers the third point of the chord. -/
theorem pointAdd_chord {xp xq : Nat} (yp yq : Nat) (hne : xp ≠ xq) (hp : xp < curveQ) (hq : xq < curveQ) :
    ∃ s, pointAdd (.affine xp yp) (.affine xq yq) = .ok (chordPoint s xp yp xq) ∧
      ∀ r, IsSum (.affine xp yp) (.affine xq yq) r ↔ r = chordPoint s xp yp xq := by
  have hprime := curveQ_prime
  have hdiff := residue_modEq ((xq : Int) - xp) hprime.pos
  have hndvd : ¬ curveQ ∣ residue ((xq : Int) - xp) curveQ := by
    refine not_dvd_of_pos_of_lt (fun h0 => hne ?_) (residue_lt _ hprime.pos)
    rw [h0] at hdiff
    have hmod : (xp : Int) ≡ xq [ZMOD curveQ] := by simpa using hdiff.add_right (xp : Int)
    exact (Int.natCast_modEq_iff.1 hmod).eq_of_lt_of_lt hp hq
  obtain ⟨inv, hinv, hone⟩ := exists_modInverse hprime hndvd
  have hden : ((xq : Int) - xp) * inv ≡ 1 [ZMOD curveQ] :=
    (hdiff.symm.mul_right _).trans (by exact_mod_cast Int.natCast_modEq_iff.2 hone)
  have hslope := residue_modEq (((yq : Int) - yp) * inv) hprime.pos
  refine ⟨residue (((yq : Int) - yp) * inv) curveQ, ?_, fun r => ?_⟩
  · rw [pointAdd, if_neg fun h => hne h.1, if_neg fun h => hne h.1, if_neg hne, hinv]
  · have hopp : ¬ (xp = xq ∧ (yp + yq) % curveQ = 0) := fun h => hne h.1
    have hsame : ¬ (xp = xq ∧ yp = yq) := fun h => hne h.1
    cases r with
    | identity => exact iff_of_false (not_isSum_identity hopp hsame) nofun
    | affine x' y' =>
      rw [isSum_chord_iff hopp hsame, and_iff_right hne, eq_comm]
      exact (chordPoint_eq_iff_exists_slope hden hslope xp yp xq x' y').symm

/-- add computes its relation, by the cases of R234: opposite, equal, the uncovered case, and different x. -/
theorem pointAdd_computes {p q : Point} (hp : Reduced p) (hq : Reduced q) :
    Computes (pointAdd p q) .noInverse (IsSum p q) := by
  match p, q with
  | .identity, q => exact computes_ok q _
  | .affine xp yp, .identity => exact computes_ok _ _
  | .affine xp yp, .affine xq yq =>
    rcases eq_or_ne xp xq with rfl | hne
    · have hopposite := eq_residue_neg_iff (z := yq) hp.2
      by_cases hopp : (yp + yq) % curveQ = 0
      · rw [pointAdd, if_pos ⟨rfl, hopposite.2 hopp⟩]
        exact (computes_ok _ _).congr fun r => (isSum_opposite ⟨rfl, hopp⟩ r).symm
      rw [pointAdd, if_neg fun h => hopp (hopposite.1 h.2)]
      by_cases heq : yp = yq
      · rw [if_pos ⟨rfl, heq⟩]
        exact (pointDouble_computes hp).congr fun r => ((isSum_same_x hopp r).trans (and_iff_right heq)).symm
      · rw [if_neg fun h => heq h.2, if_pos rfl]
        exact computes_error fun r hr => heq ((isSum_same_x hopp r).1 hr).1
    · obtain ⟨s, hok, hsum⟩ := pointAdd_chord yp yq hne hp.1 hq.1
      rw [hok]
      exact (computes_ok _ _).congr fun r => (hsum r).symm

theorem not_isSum_of_uncovered {p q : Point} (h : Uncovered p q) (r : Point) : ¬ IsSum p q r := by
  match p, q, h with
  | .affine xp yp, .affine _ yq, ⟨rfl, hne, hopp⟩ => exact fun hr => hne ((isSum_same_x hopp r).1 hr).1

/-- Only the uncovered case has no sum (`45_ec_point.md` R234): a point that is not its own opposite has y ≠ 0. -/
theorem exists_isSum {p q : Point} (hp : Reduced p) (hq : Reduced q) (h : ¬ Uncovered p q) : ∃ r, IsSum p q r := by
  match p, q with
  | .identity, q => exact ⟨q, rfl⟩
  | .affine xp yp, .identity => exact ⟨.affine xp yp, rfl⟩
  | .affine xp yp, .affine xq yq =>
    rcases eq_or_ne xp xq with rfl | hne
    · by_cases hopp : (yp + yq) % curveQ = 0
      · exact ⟨_, (isSum_opposite ⟨rfl, hopp⟩ _).2 rfl⟩
      obtain rfl : yp = yq := by
        by_contra hyne
        exact h ⟨rfl, hyne, hopp⟩
      have hy : ∀ x, Point.affine xp yp ≠ .affine x 0 := by
        rintro x ⟨⟩
        exact hopp (Nat.zero_mod _)
      obtain ⟨r, hr⟩ := exists_isDouble hp hy
      exact ⟨r, (isSum_same_x hopp r).2 ⟨rfl, hr⟩⟩
    · obtain ⟨s, -, hsum⟩ := pointAdd_chord yp yq hne hp.1 hq.1
      exact ⟨_, (hsum _).2 rfl⟩

theorem reduced_of_isSum {p q r : Point} (hp : Reduced p) (hq : Reduced q) (h : IsSum p q r) : Reduced r := by
  match p, q with
  | .identity, q =>
    obtain rfl : r = q := h
    exact hq
  | .affine xp yp, .identity =>
    obtain rfl : r = .affine xp yp := h
    exact hp
  | .affine xp yp, .affine xq yq =>
    by_cases hopp : xp = xq ∧ (yp + yq) % curveQ = 0
    · obtain rfl := (isSum_opposite hopp r).1 h
      trivial
    by_cases hsame : xp = xq ∧ yp = yq
    · obtain ⟨rfl, rfl⟩ := hsame
      exact reduced_of_isDouble ((isSum_same_x (fun h0 => hopp ⟨rfl, h0⟩) r).1 h).2
    cases r with
    | identity => trivial
    | affine x' y' =>
      obtain ⟨-, s, -, hx, hy, -⟩ := (isSum_chord_iff hopp hsame x' y').1 h
      exact ⟨hx, hy⟩

end Sys2Proof.Proofs
end

section
/-! scalarMultiply (`45_ec_point.md` R235): the double-and-add loop computes the relation of the statements. -/

namespace Sys2Proof.Proofs

open Sys2Proof.Machine Sys2Proof.Claims

/-! ### The loop of the statements, by the bits of k -/

theorem ladder_zero_iff {r a z : Point} : Ladder 0 r a z ↔ z = r := by
  constructor
  · generalize hk : 0 = k
    rintro (_ | _ | ⟨hpos, -, -⟩ | ⟨hpos, -, -, -⟩)
    · rfl
    all_goals omega
  · rintro rfl
    exact .none _ _

theorem ladder_one_iff {r a z : Point} : Ladder 1 r a z ↔ IsSum r a z := by
  refine ⟨?_, .last⟩
  generalize hk : 1 = k
  rintro (_ | h | ⟨hpos, -, -⟩ | ⟨hpos, -, -, -⟩)
  · omega
  · exact h
  all_goals omega

theorem ladder_even_iff {k : Nat} {r a z : Point} (hk : 1 ≤ k) :
    Ladder (2 * k) r a z ↔ ∃ a', IsDouble a a' ∧ Ladder k r a' z := by
  constructor
  · generalize hm : 2 * k = m
    rintro (_ | _ | ⟨hpos, hdouble, hrest⟩ | _)
    · omega
    · omega
    · obtain rfl := Nat.eq_of_mul_eq_mul_left two_pos hm
      exact ⟨_, hdouble, hrest⟩
    · omega
  · rintro ⟨a', hdouble, hrest⟩
    exact .clear hk hdouble hrest

theorem ladder_odd_iff {k : Nat} {r a z : Point} (hk : 1 ≤ k) :
    Ladder (2 * k + 1) r a z ↔ ∃ r', IsSum r a r' ∧ ∃ a', IsDouble a a' ∧ Ladder k r' a' z := by
  constructor
  · generalize hm : 2 * k + 1 = m
    rintro (_ | _ | _ | ⟨hpos, hsum, hdouble, hrest⟩)
    · omega
    · omega
    · omega
    · obtain rfl := Nat.eq_of_mul_eq_mul_left two_pos (Nat.succ.inj hm)
      exact ⟨_, hsum, _, hdouble, hrest⟩
  · rintro ⟨r', hsum, a', hdouble, hrest⟩
    exact .set hk hsum hdouble hrest

/-! ### The loop of the model -/

/-- Induction on the bits of a number from the least significant one, its most significant bit being the base. -/
theorem bits_induction {motive : Nat → Prop} (zero : motive 0) (one : motive 1)
    (even : ∀ j, 1 ≤ j → motive j → motive (2 * j)) (odd : ∀ j, 1 ≤ j → motive j → motive (2 * j + 1)) (k : Nat) :
    motive k := by
  induction k using Nat.strongRecOn with
  | ind k ih =>
    by_cases hk : 2 ≤ k
    · have hhalf := ih (k / 2) (by omega)
      rcases Nat.mod_two_eq_zero_or_one k with hbit | hbit
      · rw [show k = 2 * (k / 2) by omega]
        exact even _ (by omega) hhalf
      · rw [show k = 2 * (k / 2) + 1 by omega]
        exact odd _ (by omega) hhalf
    · interval_cases k
      · exact zero
      · exact one

theorem bitLength_two_mul_add {k b : Nat} (hk : 1 ≤ k) (hb : b < 2) : bitLength (2 * k + b) = bitLength k + 1 := by
  rw [bitLength, bitLength, if_neg (by omega), if_neg (by omega), Nat.log2_def (2 * k + b), if_pos (by omega),
    show (2 * k + b) / 2 = k by omega]

theorem bitLength_ne_zero {k : Nat} (hk : 1 ≤ k) : bitLength k ≠ 0 := by
  rw [bitLength, if_neg (by omega)]
  omega

/-- An even k only doubles. -/
theorem scalarLoop_even {k : Nat} (hk : 1 ≤ k) (r a : Point) :
    scalarLoop (bitLength (2 * k)) (2 * k) r a =
      (pointDouble a >>= fun a' => scalarLoop (bitLength k) k r a') := by
  rw [← Nat.add_zero (2 * k), bitLength_two_mul_add hk two_pos, scalarLoop, if_neg (by omega),
    show (2 * k + 0) / 2 = k by omega]
  simp only [bitLength_ne_zero hk, if_false]
  rfl

/-- An odd k from 3 on adds, and then doubles. -/
theorem scalarLoop_odd {k : Nat} (hk : 1 ≤ k) (r a : Point) :
    scalarLoop (bitLength (2 * k + 1)) (2 * k + 1) r a =
      (pointAdd r a >>= fun r' => pointDouble a >>= fun a' => scalarLoop (bitLength k) k r' a') := by
  rw [bitLength_two_mul_add hk one_lt_two, scalarLoop, if_pos (by omega), show (2 * k + 1) / 2 = k by omega]
  simp only [bitLength_ne_zero hk, if_false]

/-- No doubling follows the last bit. -/
theorem scalarLoop_one (r a : Point) : scalarLoop (bitLength 1) 1 r a = pointAdd r a := by
  have hbits : bitLength 1 = 0 + 1 := by decide
  rw [hbits, scalarLoop, if_pos rfl]
  simp only [if_true]
  exact bind_pure _

/-- The loop computes its relation, by induction on the bits of k from the least significant one. -/
theorem scalarLoop_computes (k : Nat) {r a : Point} (hr : Reduced r) (ha : Reduced a) :
    Computes (scalarLoop (bitLength k) k r a) .noInverse (Ladder k r a) := by
  induction k using bits_induction generalizing r a with
  | zero => exact (computes_ok _ _).congr fun z => ladder_zero_iff.symm
  | one =>
    rw [scalarLoop_one]
    exact (pointAdd_computes hr ha).congr fun z => ladder_one_iff.symm
  | even j hj ih =>
    rw [scalarLoop_even hj]
    have hdouble := (pointDouble_computes ha).bind fun a' ha' => ih hr (reduced_of_isDouble ha')
    exact hdouble.congr fun z => (ladder_even_iff hj).symm
  | odd j hj ih =>
    rw [scalarLoop_odd hj]
    have hsum := (pointAdd_computes hr ha).bind fun r' hr' =>
      (pointDouble_computes ha).bind fun a' ha' => ih (reduced_of_isSum hr ha hr') (reduced_of_isDouble ha')
    exact hsum.congr fun z => (ladder_odd_iff hj).symm

theorem scalarMultiply_computes {p : Point} (h : Reduced p) (k : Nat) :
    Computes (scalarMultiply p k) .noInverse (Multiple p k) :=
  scalarLoop_computes k trivial h

end Sys2Proof.Proofs
end

section
/-! The commands EC_DOUBLE, EC_ADD, EC_SCALAR_MUL and EC_ON_CURVE (`45_ec_point.md` R236 to R240). -/

namespace Sys2Proof.Proofs

open Sys2Proof.Machine Sys2Proof.Claims

/-- A point operand in DMEM is decoded to the point that it spells, or BAD_POINT. -/
theorem decPoint_read_computes (m : Memory) (a : Nat) :
    Computes (decPoint (m.read a 65)) .badPoint (Spells (m.read a 65)) :=
  decPoint_computes (Memory.read_length m a 65)

theorem ok_bind {α β : Type} (a : α) (f : α → Except CmdError β) : (Except.ok a >>= f) = f a := rfl

theorem error_bind {α β : Type} (e : CmdError) (f : α → Except CmdError β) : (Except.error e >>= f) = .error e := rfl

/-! ### EC_DOUBLE (R237) -/

/-- The rule of EC_DOUBLE once its regions pass the checks. -/
theorem runEcDouble_of_checks {c : InFlight} (m : Memory) (h : ChecksPass .ecDouble c.args c.extRand) :
    runEcDouble c m = (do
      let p ← decPoint (m.read c.args.a0.toNat 65)
      let r ← pointDouble p
      okBytes c.args.a1.toNat (pointBytes r)) := by
  have hbounds : allInBounds [regionOf c.args.a0 65, regionOf c.args.a1 65] = true := allInBounds_operands h.1
  have hapart : (regionOf c.args.a1 65).overlapsAny [regionOf c.args.a0 65] = false := overlapsAny_operands h.2 rfl
  refine (check_passes hbounds).trans ((overlap_passes hapart).trans ?_)
  simp only [Memory.fetch, regionOf, encPoint_eq_pointBytes]
  cases decPoint (m.read c.args.a0.toNat 65) with
  | error e => rfl
  | ok p =>
    simp only [ok_bind]
    cases pointDouble p <;> rfl

/-- Settles O52: past the checks the rule decodes the operand and doubles it, and only a point with y = 0 has no
double. -/
theorem ecDoubleResult : Obligations.EcDoubleResult := by
  intro s c hc hchecks
  have hrule := congrArg Completion.noDraw (runEcDouble_of_checks s.dmem hchecks)
  have hdec := decPoint_read_computes s.dmem c.args.a0.toNat
  refine ⟨fun hnone => ?badPoint, fun p hp => ?point⟩
  case badPoint =>
    rw [hdec.eq_error hnone] at hrule
    exact exec_eq_failed (i := .ecDouble) hc hrule
  case point =>
    have hreduced := reduced_of_spells hp
    rw [(hdec.ok_iff p).2 hp, ok_bind] at hrule
    refine ⟨?noInverse, fun hy => ?double⟩
    case noInverse =>
      rintro x rfl
      rw [pointDouble_y_zero] at hrule
      exact exec_eq_failed (i := .ecDouble) hc hrule
    case double =>
      obtain ⟨r, hr⟩ := exists_isDouble hreduced hy
      rw [((pointDouble_computes hreduced).ok_iff r).2 hr] at hrule
      exact ⟨r, hr, exec_eq_succeeded (i := .ecDouble) hc hrule⟩

/-! ### EC_ADD (R238) -/

/-- The rule of EC_ADD once its regions pass the checks. -/
theorem runEcAdd_of_checks {c : InFlight} (m : Memory) (h : ChecksPass .ecAdd c.args c.extRand) :
    runEcAdd c m = (do
      let p ← decPoint (m.read c.args.a0.toNat 65)
      let q ← decPoint (m.read c.args.a1.toNat 65)
      let r ← pointAdd p q
      okBytes c.args.a2.toNat (pointBytes r)) := by
  have hbounds : allInBounds [regionOf c.args.a0 65, regionOf c.args.a1 65, regionOf c.args.a2 65] = true :=
    allInBounds_operands h.1
  have hapart : (regionOf c.args.a2 65).overlapsAny [regionOf c.args.a0 65, regionOf c.args.a1 65] = false :=
    overlapsAny_operands h.2 rfl
  refine (check_passes hbounds).trans ((overlap_passes hapart).trans ?_)
  simp only [Memory.fetch, regionOf, encPoint_eq_pointBytes]
  cases decPoint (m.read c.args.a0.toNat 65) with
  | error e => rfl
  | ok p =>
    simp only [ok_bind]
    cases decPoint (m.read c.args.a1.toNat 65) with
    | error e => rfl
    | ok q =>
      simp only [ok_bind]
      cases pointAdd p q <;> rfl

/-- Settles O53: past the checks the rule decodes both operands and adds them, and only the uncovered case has no
sum. -/
theorem ecAddResult : Obligations.EcAddResult := by
  intro s c hc hchecks
  have hrule := congrArg Completion.noDraw (runEcAdd_of_checks s.dmem hchecks)
  have hdecP := decPoint_read_computes s.dmem c.args.a0.toNat
  have hdecQ := decPoint_read_computes s.dmem c.args.a1.toNat
  refine ⟨fun hnone => ?badPoint, fun p q hp hq => ?points⟩
  case badPoint =>
    refine exec_eq_failed (i := .ecAdd) (e := .badPoint) hc (hrule.trans (congrArg Completion.noDraw ?_))
    cases hp : decPoint (s.dmem.read c.args.a0.toNat 65) with
    | error e =>
      obtain rfl := hdecP.error_eq e hp
      rfl
    | ok p =>
      have hnoneQ := hnone.resolve_left fun hnoneP => hnoneP p ((hdecP.ok_iff p).1 hp)
      rw [ok_bind, hdecQ.eq_error hnoneQ, error_bind]
  case points =>
    have hreducedP := reduced_of_spells hp
    have hreducedQ := reduced_of_spells hq
    have hadd := pointAdd_computes hreducedP hreducedQ
    rw [(hdecP.ok_iff p).2 hp, ok_bind, (hdecQ.ok_iff q).2 hq, ok_bind] at hrule
    refine ⟨fun huncovered => ?noInverse, fun hcovered => ?sum⟩
    case noInverse =>
      rw [hadd.eq_error (not_isSum_of_uncovered huncovered)] at hrule
      exact exec_eq_failed (i := .ecAdd) hc hrule
    case sum =>
      obtain ⟨r, hr⟩ := exists_isSum hreducedP hreducedQ hcovered
      rw [(hadd.ok_iff r).2 hr] at hrule
      exact ⟨r, hr, exec_eq_succeeded (i := .ecAdd) hc hrule⟩

/-! ### EC_SCALAR_MUL (R239) -/

/-- The rule of EC_SCALAR_MUL once its regions pass the checks. -/
theorem runEcScalarMul_of_checks {c : InFlight} (m : Memory) (h : ChecksPass .ecScalarMul c.args c.extRand) :
    runEcScalarMul c m = (do
      let p ← decPoint (m.read c.args.a0.toNat 65)
      let r ← scalarMultiply p (os2ip (m.read c.args.a1.toNat 32))
      okBytes c.args.a2.toNat (pointBytes r)) := by
  have hbounds : allInBounds [regionOf c.args.a0 65, regionOf c.args.a1 32, regionOf c.args.a2 65] = true :=
    allInBounds_operands h.1
  have hapart : (regionOf c.args.a2 65).overlapsAny [regionOf c.args.a0 65, regionOf c.args.a1 32] = false :=
    overlapsAny_operands h.2 rfl
  refine (check_passes hbounds).trans ((overlap_passes hapart).trans ?_)
  simp only [Memory.fetchInt, Memory.fetch, regionOf, encPoint_eq_pointBytes]
  cases decPoint (m.read c.args.a0.toNat 65) with
  | error e => rfl
  | ok p =>
    simp only [ok_bind]
    cases scalarMultiply p (os2ip (m.read c.args.a1.toNat 32)) <;> rfl

/-- Settles O54: past the checks the rule decodes the operand and runs the loop, which computes its relation. -/
theorem ecScalarMulResult : Obligations.EcScalarMulResult := by
  intro s c hc hchecks
  have hrule := congrArg Completion.noDraw (runEcScalarMul_of_checks s.dmem hchecks)
  have hdec := decPoint_read_computes s.dmem c.args.a0.toNat
  refine ⟨fun hnone => ?badPoint, fun p hp => ?point⟩
  case badPoint =>
    rw [hdec.eq_error hnone] at hrule
    exact exec_eq_failed (i := .ecScalarMul) hc hrule
  case point =>
    have hloop := scalarMultiply_computes (reduced_of_spells hp) (intAt s c.args.a1 32)
    rw [(hdec.ok_iff p).2 hp, ok_bind] at hrule
    refine ⟨fun r hr => ?multiple, fun hnone => ?noInverse⟩
    case multiple =>
      rw [(hloop.ok_iff r).2 hr] at hrule
      exact exec_eq_succeeded (i := .ecScalarMul) hc hrule
    case noInverse =>
      rw [hloop.eq_error hnone] at hrule
      exact exec_eq_failed (i := .ecScalarMul) hc hrule

/-! ### EC_ON_CURVE (R236, R240) -/

theorem isOnCurve_iff (x y : Nat) : isOnCurve (.affine x y) = true ↔ OnCurve x y := by
  simp only [isOnCurve, Bool.and_eq_true, decide_eq_true_eq, beq_iff_eq, and_assoc]
  rfl

/-- The operand spells a point of the curve exactly when its tag is 0x04 and its coordinates pass the curve check,
which bounds them too. -/
theorem exists_spells_onCurve_iff {op : Bytes} (h : op.length = 65) :
    (∃ x y, Spells op (.affine x y) ∧ OnCurve x y) ↔ pointTag op = 0x04 ∧ OnCurve (pointX op) (pointY op) := by
  constructor
  · rintro ⟨x, y, hp, hcurve⟩
    obtain ⟨htag, rfl, rfl, -⟩ := (spells_affine_iff_coordinates h x y).1 hp
    exact ⟨htag, hcurve⟩
  · rintro ⟨htag, hcurve⟩
    have ⟨hx, hy, _⟩ := hcurve
    exact ⟨_, _, (spells_affine_iff_coordinates h _ _).2 ⟨htag, rfl, rfl, hx, hy⟩, hcurve⟩

/-- The rule of EC_ON_CURVE once its region passes the check. -/
theorem runEcOnCurve_of_checks {c : InFlight} (m : Memory) (h : ChecksPass .ecOnCurve c.args c.extRand) :
    runEcOnCurve c m =
      if m.byte c.args.a0.toNat ≠ 0x00 ∧ m.byte c.args.a0.toNat ≠ 0x04 then .error .badPoint
      else okValid (pointTag (m.read c.args.a0.toNat 65) == 0x04 &&
        isOnCurve (.affine (pointX (m.read c.args.a0.toNat 65)) (pointY (m.read c.args.a0.toNat 65)))) := by
  have hbounds : allInBounds [regionOf c.args.a0 65] = true := allInBounds_operands h.1
  rw [← pointTag_read]
  exact check_passes hbounds

/-- Settles O55: past the check the rule looks at the tag, and then at the curve equation. -/
theorem ecOnCurveResult : Obligations.EcOnCurveResult := by
  intro s c hc hchecks
  have hrule := congrArg Completion.noDraw (runEcOnCurve_of_checks s.dmem hchecks)
  refine ⟨fun h0 h4 => ?badPoint, fun htag => ?answers⟩
  case badPoint =>
    rw [if_pos ⟨h0, h4⟩] at hrule
    exact exec_eq_failed (i := .ecOnCurve) hc hrule
  case answers =>
    rw [if_neg fun hbad => htag.elim hbad.1 hbad.2] at hrule
    refine ⟨_, exec_eq_answered (i := .ecOnCurve) hc hrule, ?_⟩
    rw [exists_spells_onCurve_iff (Memory.read_length _ _ _), Bool.and_eq_true, beq_iff_eq, isOnCurve_iff]

end Sys2Proof.Proofs
end

section
/-! The curve is closed under double, add and scalarMultiply, and none of them fails on it (`45_ec_point.md` R241). -/

namespace Sys2Proof.Proofs

open Sys2Proof.Machine Sys2Proof.Claims

/-! ### The curve equation in the field of q elements -/

theorem onCurve_iff_equation (x y : Nat) : OnCurve x y ↔
    x < curveQ ∧ y < curveQ ∧ (y : ZMod curveQ) ^ 2 = (x : ZMod curveQ) ^ 3 + curveA * x + curveB := by
  rw [OnCurve, ← ZMod.natCast_eq_natCast_iff]
  push_cast
  rfl

/-- The tangent of slope s at a point of a curve y² = x³ + ax + b meets it in a third point. -/
theorem tangent_third_point {R : Type} [CommRing R] {a b s x y x' y' : R} (hp : y ^ 2 = x ^ 3 + a * x + b)
    (hs : s * (2 * y) = 3 * x ^ 2 + a) (hx : x' = s ^ 2 - x - x) (hy : y' = s * (x - x') - y) :
    y' ^ 2 = x' ^ 3 + a * x' + b := by
  subst hy hx
  linear_combination hp + (s ^ 2 - x - x - x) * hs

/-- The chord of slope s through two points of a curve y² = x³ + ax + b meets it in a third point. -/
theorem chord_third_point {R : Type} [CommRing R] [IsDomain R] {a b s xp yp xq yq x' y' : R}
    (hp : yp ^ 2 = xp ^ 3 + a * xp + b) (hq : yq ^ 2 = xq ^ 3 + a * xq + b) (hne : xq - xp ≠ 0)
    (hs : s * (xq - xp) = yq - yp) (hx : x' = s ^ 2 - xp - xq) (hy : y' = s * (xp - x') - yp) :
    y' ^ 2 = x' ^ 3 + a * x' + b := by
  obtain rfl : yq = yp + s * (xq - xp) := by linear_combination -hs
  refine mul_left_cancel₀ hne ?_
  subst hy hx
  linear_combination (s ^ 2 - xp - xq - xp) * hq + (xq - (s ^ 2 - xp - xq)) * hp

theorem slope_equation_cast {s den num : Int} (h : s * den ≡ num [ZMOD curveQ]) :
    (s : ZMod curveQ) * (den : ZMod curveQ) = (num : ZMod curveQ) := by
  exact_mod_cast (ZMod.intCast_eq_intCast_iff _ _ curveQ).2 h

theorem thirdPoint_cast {s : Int} {x y x2 x' y' : Nat} (h : ThirdPoint s x y x2 x' y') :
    (x' : ZMod curveQ) = (s : ZMod curveQ) ^ 2 - x - x2 ∧ (y' : ZMod curveQ) = s * (x - x') - y := by
  obtain ⟨-, -, hx, hy⟩ := h
  rw [← ZMod.intCast_eq_intCast_iff] at hx hy
  push_cast at hx hy
  exact ⟨hx, hy⟩

/-! ### Closure -/

theorem reduced_of_curvePoint {p : Point} (h : CurvePoint p) : Reduced p := by
  cases p with
  | identity => trivial
  | affine x y =>
    obtain ⟨hx, hy, -⟩ := h
    exact ⟨hx, hy⟩

theorem curvePoint_of_isDouble {p r : Point} (hp : CurvePoint p) (h : IsDouble p r) : CurvePoint r := by
  match p, r with
  | .identity, r =>
    obtain rfl : r = .identity := h
    trivial
  | .affine x y, .identity => trivial
  | .affine x y, .affine x' y' =>
    obtain ⟨-, s, hs, hthird⟩ := h
    obtain ⟨-, -, hp⟩ := (onCurve_iff_equation x y).1 hp
    have ⟨hx', hy', _⟩ := hthird
    obtain ⟨hx, hy⟩ := thirdPoint_cast hthird
    have hslope := slope_equation_cast hs
    push_cast at hslope
    exact (onCurve_iff_equation x' y').2 ⟨hx', hy', tangent_third_point hp hslope hx hy⟩

theorem curvePoint_of_isSum {p q r : Point} (hp : CurvePoint p) (hq : CurvePoint q) (h : IsSum p q r) :
    CurvePoint r := by
  match p, q with
  | .identity, q =>
    obtain rfl : r = q := h
    exact hq
  | .affine xp yp, .identity =>
    obtain rfl : r = .affine xp yp := h
    exact hp
  | .affine xp yp, .affine xq yq =>
    by_cases hopp : xp = xq ∧ (yp + yq) % curveQ = 0
    · obtain rfl := (isSum_opposite hopp r).1 h
      trivial
    by_cases hsame : xp = xq ∧ yp = yq
    · obtain ⟨rfl, rfl⟩ := hsame
      exact curvePoint_of_isDouble hp ((isSum_same_x (fun h0 => hopp ⟨rfl, h0⟩) r).1 h).2
    cases r with
    | identity => trivial
    | affine x' y' =>
      have : Fact curveQ.Prime := ⟨curveQ_prime⟩
      obtain ⟨hne, s, hs, hthird⟩ := (isSum_chord_iff hopp hsame x' y').1 h
      obtain ⟨hxp, -, hp⟩ := (onCurve_iff_equation xp yp).1 hp
      obtain ⟨hxq, -, hq⟩ := (onCurve_iff_equation xq yq).1 hq
      have ⟨hx', hy', _⟩ := hthird
      obtain ⟨hx, hy⟩ := thirdPoint_cast hthird
      have hslope := slope_equation_cast hs
      push_cast at hslope
      have hdiff : (xq : ZMod curveQ) - xp ≠ 0 := fun hzero =>
        hne (((ZMod.natCast_eq_natCast_iff _ _ _).1 (sub_eq_zero.1 hzero)).eq_of_lt_of_lt hxq hxp).symm
      exact (onCurve_iff_equation x' y').2 ⟨hx', hy', chord_third_point hp hq hdiff hslope hx hy⟩

/-! ### No failure -/

theorem exists_isDouble_of_curvePoint {p : Point} (h : CurvePoint p) : ∃ r, IsDouble p r := by
  refine exists_isDouble (reduced_of_curvePoint h) ?_
  rintro x rfl
  exact curve_y_ne_zero ((isOnCurve_iff x 0).2 h) rfl

/-- Two points of the curve with one x are equal or opposite. -/
theorem not_uncovered_of_curvePoint {p q : Point} (hp : CurvePoint p) (hq : CurvePoint q) : ¬ Uncovered p q := by
  match p, q with
  | .identity, q => exact id
  | .affine xp yp, .identity => exact id
  | .affine xp yp, .affine xq yq =>
    rintro ⟨rfl, hne, hopp⟩
    have : Fact curveQ.Prime := ⟨curveQ_prime⟩
    obtain ⟨-, hyp, hp⟩ := (onCurve_iff_equation xp yp).1 hp
    obtain ⟨-, hyq, hq⟩ := (onCurve_iff_equation xp yq).1 hq
    rcases sq_eq_sq_iff_eq_or_eq_neg.1 (hp.trans hq.symm) with heq | hneg
    · exact hne (((ZMod.natCast_eq_natCast_iff _ _ _).1 heq).eq_of_lt_of_lt hyp hyq)
    · refine hopp (Nat.mod_eq_zero_of_dvd ((ZMod.natCast_eq_zero_iff _ _).1 ?_))
      rw [Nat.cast_add, hneg, neg_add_cancel]

theorem exists_isSum_of_curvePoint {p q : Point} (hp : CurvePoint p) (hq : CurvePoint q) : ∃ r, IsSum p q r :=
  exists_isSum (reduced_of_curvePoint hp) (reduced_of_curvePoint hq) (not_uncovered_of_curvePoint hp hq)

/-- On the curve the loop has a result, which is on the curve. -/
theorem exists_ladder_of_curvePoint (k : Nat) {r a : Point} (hr : CurvePoint r) (ha : CurvePoint a) :
    ∃ z, Ladder k r a z ∧ CurvePoint z := by
  induction k using bits_induction generalizing r a with
  | zero => exact ⟨r, .none r a, hr⟩
  | one =>
    obtain ⟨z, hz⟩ := exists_isSum_of_curvePoint hr ha
    exact ⟨z, .last hz, curvePoint_of_isSum hr ha hz⟩
  | even j hj ih =>
    obtain ⟨a', ha'⟩ := exists_isDouble_of_curvePoint ha
    obtain ⟨z, hz, hcurve⟩ := ih hr (curvePoint_of_isDouble ha ha')
    exact ⟨z, .clear hj ha' hz, hcurve⟩
  | odd j hj ih =>
    obtain ⟨r', hr'⟩ := exists_isSum_of_curvePoint hr ha
    obtain ⟨a', ha'⟩ := exists_isDouble_of_curvePoint ha
    obtain ⟨z, hz, hcurve⟩ := ih (curvePoint_of_isSum hr ha hr') (curvePoint_of_isDouble ha ha')
    exact ⟨z, .set hj hr' ha' hz, hcurve⟩

theorem pointDouble_curvePoint {p : Point} (h : CurvePoint p) : ∃ r, pointDouble p = .ok r ∧ CurvePoint r := by
  obtain ⟨r, hr⟩ := exists_isDouble_of_curvePoint h
  exact ⟨r, ((pointDouble_computes (reduced_of_curvePoint h)).ok_iff r).2 hr, curvePoint_of_isDouble h hr⟩

theorem pointAdd_curvePoint {p q : Point} (hp : CurvePoint p) (hq : CurvePoint q) :
    ∃ r, pointAdd p q = .ok r ∧ CurvePoint r := by
  obtain ⟨r, hr⟩ := exists_isSum_of_curvePoint hp hq
  exact ⟨r, ((pointAdd_computes (reduced_of_curvePoint hp) (reduced_of_curvePoint hq)).ok_iff r).2 hr,
    curvePoint_of_isSum hp hq hr⟩

theorem scalarMultiply_curvePoint {p : Point} (k : Nat) (h : CurvePoint p) :
    ∃ r, scalarMultiply p k = .ok r ∧ CurvePoint r := by
  obtain ⟨r, hr, hcurve⟩ := exists_ladder_of_curvePoint k (r := .identity) trivial h
  exact ⟨r, ((scalarMultiply_computes (reduced_of_curvePoint h) k).ok_iff r).2 hr, hcurve⟩

/-- The base point is on the curve (`45_ec_point.md` R230). -/
theorem curveG_onCurve : OnCurve curveGx curveGy := (isOnCurve_iff _ _).1 (by decide)

end Sys2Proof.Proofs
end

section
/-! The command ES256_VERIFY (`46_ecdsa.md` R264). -/

namespace Sys2Proof.Proofs

open Sys2Proof.Machine Sys2Proof.Claims

theorem inScalarRange_iff (x : Nat) : inScalarRange x = true ↔ 1 ≤ x ∧ x < curveN := by
  rw [inScalarRange, Bool.and_eq_true, decide_eq_true_eq, decide_eq_true_eq, Nat.le_sub_one_iff_lt curveN_prime.pos]

/-! ### The verification equation -/

/-- For some inverse c of g mod n, [e·c]G + [r·c]Q is an affine point whose x mod n is r. -/
def Verifies (q : Point) (e r g : Nat) : Prop :=
  ∃ c, g * c ≡ 1 [MOD curveN] ∧ ∃ p1 p2 px py, Multiple curveG (e * c % curveN) p1 ∧
    Multiple q (r * c % curveN) p2 ∧ IsSum p1 p2 (.affine px py) ∧ px % curveN = r

/-- What the statements accept, in the model's words for the checks of the key operand and of the signature. -/
theorem accepts_iff {op : Bytes} (h : op.length = 65) (e r g : Nat) :
    Accepts op e r g ↔ (inScalarRange r = true ∧ inScalarRange g = true) ∧
      (pointTag op = 0x04 ∧ isOnCurve (.affine (pointX op) (pointY op)) = true) ∧
      Verifies (.affine (pointX op) (pointY op)) e r g := by
  rw [inScalarRange_iff, inScalarRange_iff, isOnCurve_iff]
  constructor
  · rintro ⟨hr, hrn, hg, hgn, x, y, hspells, hcurve, hverifies⟩
    obtain ⟨htag, rfl, rfl, -⟩ := (spells_affine_iff_coordinates h x y).1 hspells
    exact ⟨⟨⟨hr, hrn⟩, hg, hgn⟩, ⟨htag, hcurve⟩, hverifies⟩
  · rintro ⟨⟨⟨hr, hrn⟩, hg, hgn⟩, ⟨htag, hcurve⟩, hverifies⟩
    have ⟨hx, hy, _⟩ := hcurve
    have hspells := (spells_affine_iff_coordinates h _ _).2 ⟨htag, rfl, rfl, hx, hy⟩
    exact ⟨hr, hrn, hg, hgn, _, _, hspells, hcurve, hverifies⟩

/-- The last lines of ES256_VERIFY decide the verification equation: an inverse of g is unique mod n, and the point
operations answer on the curve. -/
theorem es256Accepts_curvePoint {q : Point} (msg : Bytes) (r : Nat) {g : Nat} (hq : CurvePoint q)
    (hg : inScalarRange g = true) :
    ∃ v, es256Accepts q msg r g = .ok v ∧ (v = true ↔ Verifies q (digestInt msg) r g) := by
  obtain ⟨hpos, hlt⟩ := (inScalarRange_iff g).1 hg
  obtain ⟨c, hinv, hone⟩ := exists_modInverse curveN_prime (not_dvd_of_pos_of_lt (Nat.ne_of_gt hpos) hlt)
  have hG : CurvePoint curveG := curveG_onCurve
  have hmul1 := scalarMultiply_computes (reduced_of_curvePoint hG) (digestInt msg * c % curveN)
  have hmul2 := scalarMultiply_computes (reduced_of_curvePoint hq) (r * c % curveN)
  obtain ⟨p1, hok1, hp1⟩ := scalarMultiply_curvePoint (digestInt msg * c % curveN) hG
  obtain ⟨p2, hok2, hp2⟩ := scalarMultiply_curvePoint (r * c % curveN) hq
  have hadd := pointAdd_computes (reduced_of_curvePoint hp1) (reduced_of_curvePoint hp2)
  obtain ⟨p, hok, -⟩ := pointAdd_curvePoint hp1 hp2
  have hverifies : Verifies q (digestInt msg) r g ↔ ∃ px py, p = .affine px py ∧ px % curveN = r := by
    constructor
    · rintro ⟨c', hone', p1', p2', px, py, hp1', hp2', hsum, hx⟩
      have hcop : Nat.gcd curveN g = 1 := (Nat.coprime_of_mul_modEq_one c hone).symm
      have hc : c' ≡ c [MOD curveN] := Nat.ModEq.cancel_left_of_coprime hcop (hone'.trans hone.symm)
      rw [show digestInt msg * c' % curveN = digestInt msg * c % curveN from hc.mul_left _] at hp1'
      rw [show r * c' % curveN = r * c % curveN from hc.mul_left _] at hp2'
      obtain rfl := hmul1.unique hp1' ((hmul1.ok_iff p1).1 hok1)
      obtain rfl := hmul2.unique hp2' ((hmul2.ok_iff p2).1 hok2)
      exact ⟨px, py, hadd.unique ((hadd.ok_iff p).1 hok) hsum, hx⟩
    · rintro ⟨px, py, rfl, hx⟩
      exact ⟨c, hone, p1, p2, px, py, (hmul1.ok_iff p1).1 hok1, (hmul2.ok_iff p2).1 hok2, (hadd.ok_iff _).1 hok, hx⟩
  simp only [es256Accepts, hinv, messageRepresentative, hok1, hok2, hok, ok_bind]
  cases p with
  | identity => exact ⟨false, rfl, by simp [hverifies]⟩
  | affine x y =>
    refine ⟨x % curveN == r, rfl, ?_⟩
    rw [beq_iff_eq, hverifies]
    constructor
    · intro hx
      exact ⟨x, y, rfl, hx⟩
    · rintro ⟨px, py, ⟨⟩, hx⟩
      exact hx

/-! ### The command -/

/-- What ES256_VERIFY does past the checks of its regions, of the length of the signature and of the tag. -/
def es256Answer (op msg : Bytes) (r g : Nat) : CmdResult :=
  if !inScalarRange r || !inScalarRange g then okValid false
  else if pointTag op = 0x00 || !isOnCurve (.affine (pointX op) (pointY op)) then okValid false
  else es256Accepts (.affine (pointX op) (pointY op)) msg r g >>= okValid

/-- The rule of ES256_VERIFY once its regions pass the check. -/
theorem runEs256Verify_of_bounds {c : InFlight} {m : Memory}
    (h : allInBounds [regionOf c.args.a0 65, region c.args.a1 c.args.a2, region c.args.a3 c.args.a4] = true) :
    runEs256Verify c m =
      if c.args.a4.toNat ≠ 64 then .error .sigLength
      else if m.byte c.args.a0.toNat ≠ 0x00 ∧ m.byte c.args.a0.toNat ≠ 0x04 then .error .badPoint
      else es256Answer (m.read c.args.a0.toNat 65) (m.read c.args.a1.toNat c.args.a2.toNat)
        (os2ip (m.read c.args.a3.toNat 32)) (os2ip (m.read (c.args.a3.toNat + 32) 32)) := by
  refine (check_passes h).trans (ite_congr rfl (fun _ => rfl) fun hlen => ?_)
  have hlen : c.args.a4.toNat = 64 := not_not.1 hlen
  have hr : slice (m.read c.args.a3.toNat 64) 0 32 = m.read c.args.a3.toNat 32 := slice_read m _ (by decide)
  have hs : slice (m.read c.args.a3.toNat 64) 32 32 = m.read (c.args.a3.toNat + 32) 32 := slice_read m _ (by decide)
  simp only [Memory.fetch, region, regionOf, hlen, hr, hs, pointTag_read]
  refine ite_congr rfl (fun _ => rfl) fun _ => ?_
  rw [es256Answer, pointTag_read]
  refine ite_congr rfl (fun _ => rfl) fun _ => ite_congr rfl (fun _ => rfl) fun _ => ?_
  cases es256Accepts _ _ _ _ <;> rfl

/-- Past its own checks ES256_VERIFY answers whether the key operand and the signature verify, and never fails. -/
theorem es256Answer_eq_okValid {op : Bytes} (msg : Bytes) (r g : Nat) (hlen : op.length = 65)
    (htag : pointTag op = 0x00 ∨ pointTag op = 0x04) :
    ∃ v, es256Answer op msg r g = okValid v ∧ (v = true ↔ Accepts op (digestInt msg) r g) := by
  rw [accepts_iff hlen, es256Answer]
  by_cases hrange : inScalarRange r = true ∧ inScalarRange g = true
  swap
  · rw [if_pos (by simpa [← Bool.not_eq_true, ← not_and_or] using hrange)]
    exact ⟨false, rfl, iff_of_false nofun fun h => hrange h.1⟩
  rw [if_neg (by simp [hrange]), and_iff_right hrange]
  by_cases hkey : pointTag op = 0x04 ∧ isOnCurve (.affine (pointX op) (pointY op)) = true
  swap
  · have hcond : (decide (pointTag op = 0x00) || !isOnCurve (.affine (pointX op) (pointY op))) = true := by
      rcases htag with h0 | h4
      · simp [h0]
      · simpa [h4] using hkey
    rw [if_pos hcond]
    exact ⟨false, rfl, iff_of_false nofun fun h => hkey h.1⟩
  obtain ⟨h4, hcurve⟩ := hkey
  rw [if_neg (by simp [h4, hcurve]), and_iff_right ⟨h4, hcurve⟩]
  obtain ⟨v, hv, hiff⟩ := es256Accepts_curvePoint msg r (q := .affine _ _) ((isOnCurve_iff _ _).1 hcurve) hrange.2
  exact ⟨v, by rw [hv, ok_bind], hiff⟩

/-- Settles O58: past the check of its regions the rule makes its own ones in order and then answers, since the point
operations do not fail on the curve. -/
theorem es256VerifyResult : Obligations.Es256VerifyResult := by
  intro s c hc hchecks
  have hrule := congrArg Completion.noDraw (runEs256Verify_of_bounds (m := s.dmem) (allInBounds_operands hchecks.1))
  refine ⟨fun hlen => ?sigLength, fun hlen h0 h4 => ?badPoint, fun hlen htag => ?answers⟩
  case sigLength =>
    rw [if_pos hlen] at hrule
    exact exec_eq_failed (i := .es256Verify) hc hrule
  case badPoint =>
    rw [if_neg (not_not.2 hlen), if_pos ⟨h0, h4⟩] at hrule
    exact exec_eq_failed (i := .es256Verify) hc hrule
  case answers =>
    have htagged : ¬ (s.dmem.byte c.args.a0.toNat ≠ 0x00 ∧ s.dmem.byte c.args.a0.toNat ≠ 0x04) := fun hbad =>
      htag.elim hbad.1 hbad.2
    rw [← pointTag_read] at htag
    obtain ⟨v, hv, hiff⟩ := es256Answer_eq_okValid (textAt s c.args.a1 c.args.a2) (intAt s c.args.a3 32)
      (os2ip (s.dmem.read (c.args.a3.toNat + 32) 32)) (Memory.read_length _ _ _) htag
    rw [if_neg (not_not.2 hlen), if_neg htagged, hv] at hrule
    exact ⟨v, exec_eq_answered (i := .es256Verify) hc hrule, hiff⟩

end Sys2Proof.Proofs
end

section
/-! Which commands can end with NO_INVERSE (`45_ec_point.md` R241). -/

namespace Sys2Proof.Proofs

open Sys2Proof.Machine Sys2Proof.Claims

/-! ### The errors of the engines -/

/-- A rule ends with an error past a check of another error only if the check passes and what follows ends with it. -/
theorem guard_eq_error {p : Prop} [Decidable p] {e e' : CmdError} {α : Type} {r : Except CmdError α} (he : e ≠ e') :
    (if p then .error e else r) = .error e' ↔ ¬ p ∧ r = .error e' := by
  split <;> simp [*]

/-- `guard_eq_error` for a rule that may draw. -/
theorem guard_result_eq_error {p : Prop} [Decidable p] {e e' : CmdError} {r : Completion} (he : e ≠ e') :
    (if p then Completion.noDraw (.error e) else r).result = .error e' ↔ ¬ p ∧ r.result = .error e' := by
  split <;> simp [*]

theorem b64Scan_error {x : Bytes} {e : CmdError} (h : b64Scan x = some e) : e = .b64BadPad ∨ e = .b64BadChar := by
  fun_induction b64Scan x <;> simp_all

theorem b64Validate_ne_noInverse (x : Bytes) : b64Validate x ≠ .error .noInverse := by
  simp only [b64Validate]
  split
  · rename_i e he
    rintro ⟨⟩
    simpa using b64Scan_error he
  · simp [guard_eq_error]

theorem encPkcs1_ne_noInverse (d : Bytes) (n : Nat) : encPkcs1 d n ≠ .error .noInverse := by
  simp [encPkcs1, guard_eq_error]

theorem encPss_ne_noInverse (m salt : Bytes) (sLen modBits : Nat) : encPss m sLen modBits salt ≠ .error .noInverse := by
  simp [encPss, guard_eq_error]

theorem rsasp1_ne_noInverse (n d m : Nat) : rsasp1 n d m ≠ .error .noInverse := by
  simp [rsasp1, guard_eq_error]

theorem rsavp1_ne_noInverse (n e s : Nat) : rsavp1 n e s ≠ .error .noInverse := by
  simp [rsavp1, guard_eq_error]

/-- A try of the signing loop never fails, since G is on the curve. -/
theorem es256Try_ne_error (d e k : Nat) (x : CmdError) : es256Try d e k ≠ .error x := by
  obtain ⟨p, hp, -⟩ := scalarMultiply_curvePoint (p := curveG) k curveG_onCurve
  fun_cases es256Try d e k
  case case1 y hy => exact absurd (hp.symm.trans hy) nofun
  all_goals nofun

theorem es256Loop_error {d e : Nat} {nonce : Nat → Nat} {tries drawn : Nat} {x : CmdError}
    (h : (es256Loop d e nonce tries drawn).1 = .error x) : x = .nonceRejected := by
  fun_induction es256Loop d e nonce tries drawn
  case case1 => exact (Except.error.inj h).symm
  case case2 y hy => exact absurd hy (es256Try_ne_error _ _ _ y)
  case case3 ih => exact ih h
  case case4 => cases h

theorem es256Result_error {dst : Region} {r : Except CmdError (Nat × Nat)} {x : CmdError}
    (h : es256Result dst r = .error x) : r = .error x := by
  cases r with
  | error e => exact congrArg Except.error (Except.error.inj h)
  | ok sig => cases h

theorem runEs256Verify_ne_noInverse (c : InFlight) (m : Memory) : runEs256Verify c m ≠ .error .noInverse := by
  cases hbounds : allInBounds [regionOf c.args.a0 65, region c.args.a1 c.args.a2, region c.args.a3 c.args.a4] with
  | false =>
    rw [show runEs256Verify c m = .error .outOfBounds from check_fails hbounds]
    nofun
  | true =>
    rw [runEs256Verify_of_bounds hbounds, Ne, guard_eq_error (by decide), guard_eq_error (by decide)]
    rintro ⟨-, htag, h⟩
    rw [not_and_or, not_not, not_not, ← pointTag_read] at htag
    obtain ⟨v, hv, -⟩ := es256Answer_eq_okValid _ _ _ (Memory.read_length _ _ _) htag
    rw [hv] at h
    cases h

/-! ### The commands -/

/-- Only the three point operations can end with NO_INVERSE: of the others only ES256 works with points, and those are
on the curve. -/
theorem commandRule_ne_noInverse {i : Instr} (hdouble : i ≠ .ecDouble) (hadd : i ≠ .ecAdd) (hmul : i ≠ .ecScalarMul)
    (n : Nat) (c : InFlight) (m : Memory) : (commandRule i n c m).result ≠ .error .noInverse := by
  intro h
  cases i
  case ecDouble => exact hdouble rfl
  case ecAdd => exact hadd rfl
  case ecScalarMul => exact hmul rfl
  case es256Verify => exact runEs256Verify_ne_noInverse c m h
  all_goals simp only [commandRule, noDraw_result, runSha256, runHmacSha256, runHmacVerify, runB64uEncode,
    runB64uDecode, runEmsaPkcs1Encode, runMgf1, runEmsaPssVerify, runI2osp, runRsasp1, runRsavp1, runRsaPrimitive,
    runRs256Sign, runRs256Verify, runPs256Verify, runEcOnCurve, runEmsaPssEncode, runPs256Sign, runEs256Sign,
    guard_eq_error, guard_result_eq_error, ne_eq, reduceCtorEq, not_false_eq_true, okBytes_ne_error,
    okValid_ne_error, and_false] at h
  case b64uDecode => grind [b64Validate_ne_noInverse, okBytes]
  case emsaPkcs1Encode => grind [encPkcs1_ne_noInverse, okBytes]
  case emsaPssEncode => grind [encPss_ne_noInverse, okBytes]
  case rsasp1 => grind [rsasp1_ne_noInverse, okBytes]
  case rsavp1 => grind [rsavp1_ne_noInverse, okBytes]
  case rs256Sign => grind [rs256Encode, encPkcs1_ne_noInverse, rsasp1_ne_noInverse, okBytes]
  case rs256Verify => grind [rs256Encode, encPkcs1_ne_noInverse, rsavp1_ne_noInverse, okValid]
  case ps256Sign => grind [encPss_ne_noInverse, rsasp1_ne_noInverse, okBytes]
  case ps256Verify => grind [rsavp1_ne_noInverse, okValid]
  case es256Sign =>
    obtain ⟨-, -, -, h⟩ := h
    split at h
    · rw [guard_result_eq_error (by decide)] at h
      exact absurd (es256Loop_error (es256Result_error h.2)) nofun
    · exact absurd (es256Loop_error (es256Result_error h)) nofun

theorem code_eq_noInverse_iff (e : CmdError) : e.code = 0x2504 ↔ e = .noInverse := by
  cases e <;> decide

/-- Settles O56: the curve is closed under the point operations, none of which fails on it, and the rules of the other
commands never end with NO_INVERSE. -/
theorem curvePointsNeverFail : Obligations.CurvePointsNeverFail := by
  refine ⟨⟨rfl, by decide, rfl, rfl, rfl⟩, fun p => pointDouble_curvePoint, fun p q => pointAdd_curvePoint,
    fun p k => scalarMultiply_curvePoint k, fun i s t hdouble hadd hmul h hcode => ?_⟩
  obtain ⟨c, -, ⟨o, -, -, rfl⟩ | ⟨e, he, rfl⟩⟩ := exec_next_cases h
  · exact absurd (show (0 : Word) = 0x2504 from hcode) (by decide)
  · obtain rfl := (code_eq_noInverse_iff e).1 hcode
    exact commandRule_ne_noInverse hdouble hadd hmul _ _ _ he

end Sys2Proof.Proofs
end

section
/-! The command ES256_SIGN (`46_ecdsa.md` R260 to R263): one try of the signing loop, the loop, and the command. -/

namespace Sys2Proof.Proofs

open Sys2Proof.Machine Sys2Proof.Claims

/-! ### One try -/

/-- With c an inverse of k mod n, the g of [0, n − 1] with k·g ≡ z is c·z mod n. -/
theorem mul_modEq_iff_of_inverse {n k c g : Nat} (hinv : k * c ≡ 1 [MOD n]) (hg : g < n) (z : Nat) :
    k * g ≡ z [MOD n] ↔ g = c * z % n := by
  constructor
  · intro hkg
    have hmod : g ≡ c * z [MOD n] :=
      calc g = 1 * g := (Nat.one_mul g).symm
        _ ≡ k * c * g [MOD n] := (hinv.mul_right g).symm
        _ = c * (k * g) := by ring
        _ ≡ c * z [MOD n] := hkg.mul_left c
    rw [← Nat.mod_eq_of_lt hg]
    exact hmod
  · rintro rfl
    calc k * (c * z % n) ≡ k * (c * z) [MOD n] := (Nat.mod_modEq _ n).mul_left k
      _ = k * c * z := by ring
      _ ≡ 1 * z [MOD n] := hinv.mul_right z
      _ = z := Nat.one_mul z

theorem inverse_mul_mod_eq_zero_iff {n k c : Nat} (hn : 0 < n) (hinv : k * c ≡ 1 [MOD n]) (z : Nat) :
    c * z % n = 0 ↔ z % n = 0 := by
  rw [eq_comm, ← mul_modEq_iff_of_inverse hinv hn, Nat.mul_zero, Nat.ModEq, Nat.zero_mod, eq_comm]

theorem scalarMultiply_curveG_eq_ok_iff (k : Nat) (p : Point) : scalarMultiply curveG k = .ok p ↔ Multiple curveG k p :=
  (scalarMultiply_computes (reduced_of_curvePoint (p := curveG) curveG_onCurve) k).ok_iff p

/-- A nonce in range has an inverse mod n. -/
theorem exists_nonce_inverse {k : Nat} (hk : inScalarRange k = true) :
    ∃ c, modInverse k curveN = some c ∧ k * c ≡ 1 [MOD curveN] := by
  obtain ⟨hpos, hlt⟩ := (inScalarRange_iff k).1 hk
  exact exists_modInverse curveN_prime (not_dvd_of_pos_of_lt (Nat.ne_of_gt hpos) hlt)

theorem es256Try_identity {d e k : Nat} (hmul : scalarMultiply curveG k = .ok .identity) :
    es256Try d e k = .ok none := by
  rw [es256Try, hmul]

/-- A try whose [k]G is an affine point is rejected for r = 0 and for s = 0, and signs otherwise. -/
theorem es256Try_affine {d e k x y c : Nat} (hmul : scalarMultiply curveG k = .ok (.affine x y))
    (hinv : modInverse k curveN = some c) :
    es256Try d e k =
      if x % curveN = 0 ∨ c * (e + x % curveN * d) % curveN = 0 then .ok none
      else .ok (some (x % curveN, c * (e + x % curveN * d) % curveN)) := by
  simp only [es256Try, hmul, hinv, ite_or]

/-- The signature of a nonce in range is the one that the try with it answers. -/
theorem es256Try_of_signsWith {d e k r g : Nat} (hk : inScalarRange k = true) (h : SignsWith d e k r g) :
    es256Try d e k = .ok (some (r, g)) := by
  obtain ⟨x, y, hmul, rfl, hr, hpos, hlt, hsig⟩ := h
  obtain ⟨c, hinv, hone⟩ := exists_nonce_inverse hk
  obtain rfl := (mul_modEq_iff_of_inverse hone hlt _).1 hsig
  rw [es256Try_affine ((scalarMultiply_curveG_eq_ok_iff _ _).2 hmul) hinv, if_neg (not_or.2 ⟨hr, hpos.ne'⟩)]

/-- A try with a nonce in range answers its signature or rejects it. -/
theorem es256Try_cases (d e : Nat) {k : Nat} (hk : inScalarRange k = true) :
    (∃ r g, SignsWith d e k r g ∧ es256Try d e k = .ok (some (r, g))) ∨
      (Rejects d e k ∧ es256Try d e k = .ok none) := by
  obtain ⟨p, hok, -⟩ := scalarMultiply_curvePoint (p := curveG) k curveG_onCurve
  have hmul := (scalarMultiply_curveG_eq_ok_iff k p).1 hok
  cases p with
  | identity => exact .inr ⟨.inl hmul, es256Try_identity hok⟩
  | affine x y =>
    obtain ⟨c, hinv, hone⟩ := exists_nonce_inverse hk
    by_cases hzero : x % curveN = 0 ∨ c * (e + x % curveN * d) % curveN = 0
    · refine .inr ⟨.inr ⟨x, y, hmul, ?_⟩, (es256Try_affine hok hinv).trans (if_pos hzero)⟩
      rwa [inverse_mul_mod_eq_zero_iff curveN_prime.pos hone] at hzero
    · obtain ⟨hr, hs⟩ := not_or.1 hzero
      have hlt : c * (e + x % curveN * d) % curveN < curveN := Nat.mod_lt _ curveN_prime.pos
      exact .inl ⟨_, _, ⟨x, y, hmul, rfl, hr, Nat.pos_of_ne_zero hs, hlt, (mul_modEq_iff_of_inverse hone hlt _).2 rfl⟩,
        (es256Try_affine hok hinv).trans (if_neg hzero)⟩

/-! ### The loop -/

theorem es256Loop_of_rejected {d e tries drawn : Nat} {nonce : Nat → Nat} (h : es256Try d e (nonce drawn) = .ok none) :
    es256Loop d e nonce (tries + 1) drawn = es256Loop d e nonce tries (drawn + 1) := by
  rw [es256Loop, h]

theorem es256Loop_of_signed {d e tries drawn : Nat} {nonce : Nat → Nat} {sig : Nat × Nat}
    (h : es256Try d e (nonce drawn) = .ok (some sig)) :
    es256Loop d e nonce (tries + 1) drawn = (.ok sig, drawn + 1) := by
  rw [es256Loop, h]

/-- The loop ends with the signature of the first nonce that is not rejected, or rejects all that are left. -/
theorem es256Loop_cases (d e : Nat) {nonce : Nat → Nat} (hnonce : ∀ j, inScalarRange (nonce j) = true)
    (tries drawn : Nat) :
    (∃ j < tries, (∀ t < j, Rejects d e (nonce (drawn + t))) ∧ ∃ r g, SignsWith d e (nonce (drawn + j)) r g ∧
        es256Loop d e nonce tries drawn = (.ok (r, g), drawn + j + 1)) ∨
      ((∀ t < tries, Rejects d e (nonce (drawn + t))) ∧
        es256Loop d e nonce tries drawn = (.error .nonceRejected, drawn + tries)) := by
  induction tries generalizing drawn with
  | zero => exact .inr ⟨nofun, rfl⟩
  | succ tries ih =>
    rcases es256Try_cases d e (hnonce drawn) with ⟨r, g, hsig, htry⟩ | ⟨hrej, htry⟩
    · exact .inl ⟨0, Nat.succ_pos _, nofun, r, g, hsig, es256Loop_of_signed htry⟩
    have hfirst : ∀ {j}, (∀ t < j, Rejects d e (nonce (drawn + 1 + t))) →
        ∀ t < j + 1, Rejects d e (nonce (drawn + t)) := by
      intro j hrest t ht
      cases t with
      | zero => exact hrej
      | succ t => simpa only [Nat.add_right_comm, Nat.add_assoc] using hrest t (Nat.lt_of_succ_lt_succ ht)
    rw [es256Loop_of_rejected htry]
    rcases ih (drawn + 1) with ⟨j, hj, hrest, r, g, hsig, hloop⟩ | ⟨hrest, hloop⟩
    · rw [Nat.add_right_comm drawn 1 j] at hsig hloop
      exact .inl ⟨j + 1, Nat.succ_lt_succ hj, hfirst hrest, r, g, hsig, hloop⟩
    · rw [Nat.add_right_comm drawn 1 tries] at hloop
      exact .inr ⟨hfirst hrest, hloop⟩

/-! ### The command -/

/-- The rule of ES256_SIGN once its regions pass the checks. -/
theorem runEs256Sign_of_checks {c : InFlight} {m : Memory} {d e tries : Nat} {rng nonce : Nat → Nat}
    (h : ChecksPass .es256Sign c.args c.extRand) (hd : d = os2ip (m.read c.args.a0.toNat 32))
    (he : e = digestInt (m.read c.args.a1.toNat c.args.a2.toNat)) (htries : tries = if c.extRand = true then 1 else 64)
    (hnonce : ∀ j, nonce j = if c.extRand = true then os2ip (m.read c.args.a4.toNat 32) else rng j) :
    runEs256Sign rng c m =
      if !inScalarRange d then .noDraw (.error .badKey)
      else if c.extRand && !inScalarRange (nonce 0) then .noDraw (.error .badNonce)
      else
        { result := es256Result (regionOf c.args.a3 64) (es256Loop d e nonce tries 0).1
          draws := if c.extRand then 0 else (es256Loop d e nonce tries 0).2 } := by
  subst hd he htries
  obtain rfl := funext hnonce
  have hbounds := allInBounds_external (allInBounds_operands h.1)
  have hapart := overlapsAny_external (overlapsAny_operands h.2 rfl)
  refine (check_passes hbounds).trans ((overlap_passes hapart).trans (ite_congr rfl (fun _ => rfl) fun _ => ?_))
  cases c.extRand <;> rfl

/-- The command writes the signature that the loop ends with. -/
theorem exec_es256Sign_succeeded {s : State} {c : InFlight} {d e k r g draws : Nat} (hc : s.inflight = some c)
    (hsig : SignsWith d e k r g)
    (hrule : commandRule .es256Sign s.rngDraws c s.dmem =
      { result := es256Result (regionOf c.args.a3 64) (.ok (r, g)), draws := draws }) :
    ∃ R S : Bytes, R.length = 32 ∧ os2ip R = r ∧ S.length = 32 ∧ os2ip S = g ∧
      exec .es256Sign s = .next (succeeded s c.args.a3 (R ++ S) draws) := by
  obtain ⟨x, y, -, rfl, -, -, hg, -⟩ := hsig
  have hwidth : curveN < 256 ^ 32 := by decide
  have hr : x % curveN < curveN := Nat.mod_lt x curveN_prime.pos
  exact ⟨_, _, i2osp_length _ _, os2ip_i2osp_of_lt (hr.trans hwidth), i2osp_length _ _,
    os2ip_i2osp_of_lt (hg.trans hwidth), exec_eq_succeeded hc hrule⟩

theorem not_inScalarRange_iff (x : Nat) : (!inScalarRange x) = true ↔ x = 0 ∨ curveN ≤ x := by
  rw [Bool.not_eq_true', ← Bool.not_eq_true, inScalarRange_iff, not_and_or, Nat.not_le, Nat.lt_one_iff, Nat.not_lt]

/-- Every nonce of a command is in range when its first one is: an operand is the only nonce, and the RNG's draws are
in range (`70_reset_and_hazards.md` R348). -/
theorem inScalarRange_nonces {x : Bool} {operand draw : Nat} {nonce : Nat → Nat}
    (hnonce : ∀ j, nonce j = if x = true then operand else rngScalar curveN (draw + j))
    (hfirst : inScalarRange (nonce 0) = true) (j : Nat) : inScalarRange (nonce j) = true := by
  rw [hnonce] at hfirst ⊢
  cases x with
  | true => exact hfirst
  | false =>
    obtain ⟨hpos, hle⟩ := rngScalar_range curveN (draw + j) (by decide)
    exact (inScalarRange_iff _).2 ⟨hpos, (Nat.le_sub_one_iff_lt curveN_prime.pos).1 hle⟩

/-- Settles O57: past the checks of its regions the rule checks the key and an external nonce, and then runs the loop,
which ends with the first nonce that is not rejected. -/
theorem es256SignResult : Obligations.Es256SignResult := by
  intro s c d e tries nonce hc hchecks hd he htries hnonce
  have hrule : commandRule .es256Sign s.rngDraws c s.dmem = _ :=
    runEs256Sign_of_checks hchecks hd he htries hnonce
  refine ⟨fun hkey => ?badKey, fun hd0 hdn hX hbad => ?badNonce, fun hd0 hdn hk0 hkn => ?signs⟩
  case badKey =>
    rw [if_pos ((not_inScalarRange_iff d).2 hkey)] at hrule
    exact exec_eq_failed hc hrule
  all_goals rw [if_neg (mt (not_inScalarRange_iff d).1 (not_or.2 ⟨hd0, hdn.not_ge⟩))] at hrule
  case badNonce =>
    rw [if_pos (by rw [hX, (not_inScalarRange_iff _).2 hbad]; rfl)] at hrule
    exact exec_eq_failed hc hrule
  case signs =>
    have hfirst : inScalarRange (nonce 0) = true := (inScalarRange_iff _).2 ⟨Nat.pos_of_ne_zero hk0, hkn⟩
    rw [if_neg (by simp [hfirst])] at hrule
    refine ⟨fun r g hsig => ?firstSigns, ?loop⟩
    case firstSigns =>
      obtain ⟨t, rfl⟩ : ∃ t, tries = t + 1 := Nat.exists_eq_succ_of_ne_zero (by split at htries <;> omega)
      rw [es256Loop_of_signed (es256Try_of_signsWith hfirst hsig)] at hrule
      exact exec_es256Sign_succeeded hc hsig hrule
    case loop =>
      have hcases := es256Loop_cases d e (inScalarRange_nonces hnonce hfirst) tries 0
      simp only [Nat.zero_add] at hcases
      rcases hcases with ⟨j, hj, hrejects, r, g, hsig, hloop⟩ | ⟨hrejects, hloop⟩
      · rw [hloop] at hrule
        obtain ⟨R, S, hR, hRr, hS, hSg, hexec⟩ := exec_es256Sign_succeeded hc hsig hrule
        exact .inl ⟨j, hj, hrejects, r, g, R, S, hsig, hR, hRr, hS, hSg, hexec⟩
      · have hdraws : (if c.extRand = true then 0 else tries) = if c.extRand = true then 0 else 64 := by
          rw [htries]
          split <;> rfl
        rw [hloop, hdraws] at hrule
        exact .inr ⟨hrejects, exec_eq_failed hc hrule⟩

end Sys2Proof.Proofs
end

section
/-! Reset (`70_reset_and_hazards.md` R340, R341, R343), and that every step has a next state (`60_exceptions.md`
R300). -/

namespace Sys2Proof.Proofs

open Sys2Proof.Machine

/-! ### The next state -/

/-- Settles O6: the sequencer's own move and each event of the list are answered with a next state. -/
theorem stepNeverStops : Obligations.StepNeverStops := by
  intro s
  cases h : s.turns with
  | nil =>
    obtain ⟨t, ht, -⟩ := sequencerTurn_next s
    exact ⟨t, (step_nil h).trans ht⟩
  | cons e rest =>
    obtain ⟨t, ht, -⟩ := step_takes_event h
    exact ⟨t, ht⟩

/-! ### The reset state -/

/-- Settles O8: the record and the list of written bytes are empty. -/
theorem resetMeetsInvariant : Obligations.ResetMeetsInvariant where
  dmem_canonical := Memory.wf_atPowerOn 0
  errcode_known := .inl rfl
  err_iff_class := iff_of_false nofun (not_not.2 rfl)
  err_clears := nofun
  valid_reported := nofun
  resultLen_bound := Nat.zero_le _
  busy_record := nofun

/-- Every field that a reset sets holds its value after reset (`70_reset_and_hazards.md` R340). -/
structure IsReset (t : State) : Prop where
  ctrl : t.ctrl = State.reset.ctrl
  status : t.status = State.reset.status
  cmdLast : t.cmdLast = 0
  errcode : t.errcode = 0
  resultLen : t.resultLen = 0
  args : t.args = Args.zero
  inflight : t.inflight = none

theorem isReset_reset : IsReset State.reset := ⟨rfl, rfl, rfl, rfl, rfl, rfl, rfl⟩

theorem isReset_resetInput (s : State) : IsReset s.resetInput := ⟨rfl, rfl, rfl, rfl, rfl, rfl, rfl⟩

theorem isReset_powerOnReset (s : State) : IsReset s.powerOnReset := ⟨rfl, rfl, rfl, rfl, rfl, rfl, rfl⟩

/-- The step that takes the reset input. -/
theorem step_resetInput {s : State} {rest : List Turn} (h : s.turns = .resetInput :: rest) :
    step s = .next (State.resetInput { s with turns := rest }) :=
  step_cons h

/-- The step that takes power-on. -/
theorem step_powerOn {s : State} {rest : List Turn} (h : s.turns = .powerOn :: rest) :
    step s = .next (State.powerOnReset { s with turns := rest }) :=
  step_cons h

theorem zero_get (i : Fin 8) : Args.zero.get i = 0 := by
  fin_cases i <;> rfl

theorem readReg_status_of_isReset {t : State} (h : IsReset t) : t.readReg .status = 0 := by
  simp only [State.readReg, State.statusWord, State.busy, h.inflight, h.status]
  rfl

/-- Settles O10: both events leave the reset values of `State.reset`, and the registers read them. -/
theorem resetState : Obligations.ResetState := by
  intro t ht
  have hreset : IsReset t := by
    obtain rfl | ⟨s, rest, hturns, hstep⟩ | ⟨s, rest, hturns, hstep⟩ := ht
    · exact isReset_reset
    · obtain rfl := Host.Outcome.next.inj ((step_resetInput hturns).symm.trans hstep)
      exact isReset_resetInput _
    · obtain rfl := Host.Outcome.next.inj ((step_powerOn hturns).symm.trans hstep)
      exact isReset_powerOnReset _
  refine ⟨rfl, rfl, congrArg Ctrl.toWord hreset.ctrl, readReg_status_of_isReset hreset, hreset.cmdLast,
    hreset.errcode, hreset.resultLen, fun i => ?args, hreset.inflight, ?busy, ?irq⟩
  case args => exact (congrArg (Args.get · i) hreset.args).trans (zero_get i)
  case busy => rw [State.busy_eq, hreset.inflight, Option.isSome_none]
  case irq =>
    rw [State.irq, hreset.ctrl, hreset.status]
    rfl

/-- A byte not written since power-on is the free byte of that power-on (log entry 1). -/
theorem byte_atPowerOn (n a : Nat) : (Memory.atPowerOn n).byte a = Config.powerOnByte n a := rfl

/-- Settles O11: the reset input passes DMEM and the count of draws through; power-on leaves no byte written. -/
theorem resetAndDmem : Obligations.ResetAndDmem := by
  intro s rest
  constructor
  · intro h
    exact ⟨_, step_resetInput h, fun _ => rfl, rfl, rfl⟩
  · intro h
    exact ⟨_, step_powerOn h, byte_atPowerOn _, rfl, rfl⟩

end Sys2Proof.Proofs
end

section
/-! Draws of the RNG (`70_reset_and_hazards.md` R348, R349): which command draws, how often, and which error can come
after a draw (`60_exceptions.md` R305). -/

namespace Sys2Proof.Proofs

open Sys2Proof.Machine Sys2Proof.Claims

/-! ### The draws of a rule -/

/-- The error that a command can meet after a draw (`60_exceptions.md` R305). -/
def LateError (i : Instr) (e : CmdError) : Prop :=
  (i = .ps256Sign ∧ e = .repOutOfRange) ∨ (i = .es256Sign ∧ e = .nonceRejected)

/-- The most draws that a command makes (`70_reset_and_hazards.md` R348, ECDSA_MAX_TRIES of `00_scope.md` R7). -/
def maxDraws (i : Instr) : Nat := if i = .es256Sign then Config.ecdsaMaxTries else if mayDraw i then 1 else 0

/-- A rule's end d draws nothing; or X = 0, the draws are within the command's bound, and an error is one that can come
after a draw. -/
def DrawsWithin (i : Instr) (x : Bool) (d : Completion) : Prop :=
  d.draws = 0 ∨ (x = false ∧ d.draws ≤ maxDraws i ∧ ∀ e, d.result = .error e → LateError i e)

/-- No draw comes before a check that fails. -/
theorem drawsWithin_guard {i : Instr} {x : Bool} {p : Prop} [Decidable p] {r : CmdResult} {d : Completion}
    (h : ¬ p → DrawsWithin i x d) : DrawsWithin i x (if p then .noDraw r else d) := by
  by_cases hp : p
  · rw [if_pos hp]
    exact .inl rfl
  · rw [if_neg hp]
    exact h hp

/-- A rule that draws n values where X = 0 and none where X = 1. -/
theorem drawsWithin_unless {i : Instr} {x : Bool} {r : CmdResult} {n : Nat} (hn : n ≤ maxDraws i)
    (hr : ∀ e, r = .error e → LateError i e) :
    DrawsWithin i x { result := r, draws := if x then 0 else n } := by
  cases x with
  | true => exact .inl rfl
  | false => exact .inr ⟨rfl, hn, hr⟩

/-- EncPSS fails only for an emLen too short for the salt (`43_rsa_padding.md` R175). -/
theorem encPss_ne_error {sLen modBits : Nat} (h : 34 + sLen ≤ pssEmLen modBits) (m salt : Bytes) (e : CmdError) :
    encPss m sLen modBits salt ≠ .error e := by
  have hlong : ¬ pssEmLen modBits < hLen + sLen + 2 := by
    simp only [hLen]
    omega
  rw [encPss, if_neg hlong]
  nofun

theorem rsasp1_error {n d m : Nat} {e : CmdError} (h : rsasp1 n d m = .error e) : e = .repOutOfRange := by
  rw [rsasp1_eq] at h
  split at h <;> cases h
  rfl

/-- EMSA_PSS_ENCODE draws its salt after the last check (`43_rsa_padding.md` R176). -/
theorem drawsWithin_emsaPssEncode (rng : Nat → Bytes) (c : InFlight) (m : Memory) :
    DrawsWithin .emsaPssEncode c.extRand (runEmsaPssEncode rng c m) := by
  refine drawsWithin_guard fun _ => drawsWithin_guard fun _ => drawsWithin_guard fun hlong =>
    drawsWithin_unless le_rfl fun e he => ?_
  have hlen : 34 + c.args.a2.toNat ≤ pssEmLen c.args.a3.toNat := by
    simp only [regionOf] at hlong
    omega
  split at he
  · rename_i henc
    exact absurd henc (encPss_ne_error hlen _ _ _)
  · cases he

/-- PS256_SIGN draws its salt before the one check that is left, that of RSASP1 (`44_rsa_engine.md` R210). -/
theorem drawsWithin_ps256Sign (rng : Nat → Bytes) (c : InFlight) (m : Memory) :
    DrawsWithin .ps256Sign c.extRand (runPs256Sign rng c m) := by
  refine drawsWithin_guard fun hkey => drawsWithin_guard fun _ => drawsWithin_guard fun _ => drawsWithin_guard fun _ =>
    drawsWithin_guard fun hlong => drawsWithin_unless le_rfl fun e he => ?_
  have hlen : 34 + ps256SaltLen ≤ pssEmLen (c.args.a0.toNat - 1) := by
    rw [pssEmLen_of_keyLengthOk ((bitLengthOk_iff c.args).1 (by simpa using hkey))]
    simp only [hLen, ps256SaltLen] at hlong
    simp only [kLen, ps256SaltLen]
    omega
  split at he
  · rename_i henc
    exact absurd henc (encPss_ne_error hlen _ _ _)
  · split at he
    · rename_i hrange
      cases he
      exact .inl ⟨rfl, rsasp1_error hrange⟩
    · cases he

/-- Each try of the signing loop takes one nonce (`46_ecdsa.md` R263). -/
theorem es256Loop_drawn_le (d e : Nat) (nonce : Nat → Nat) (tries drawn : Nat) :
    (es256Loop d e nonce tries drawn).2 ≤ drawn + tries := by
  fun_induction es256Loop d e nonce tries drawn
  case case1 => exact le_rfl
  case case2 | case4 => exact Nat.add_le_add_left (Nat.succ_pos _) _
  case case3 ih => exact ih.trans_eq (Nat.add_right_comm _ 1 _)

/-- ES256_SIGN draws in its loop, which can only run out of tries (`46_ecdsa.md` R263). -/
theorem drawsWithin_es256Sign (rng : Nat → Nat) (c : InFlight) (m : Memory) :
    DrawsWithin .es256Sign c.extRand (runEs256Sign rng c m) := by
  refine drawsWithin_guard fun _ => drawsWithin_guard fun _ => drawsWithin_guard fun _ => ?_
  cases hX : c.extRand with
  | true =>
    rw [if_pos rfl]
    exact drawsWithin_guard fun _ => .inl rfl
  | false =>
    exact .inr ⟨rfl, (es256Loop_drawn_le _ _ _ _ _).trans_eq (Nat.zero_add _),
      fun e he => .inr ⟨rfl, es256Loop_error (es256Result_error he)⟩⟩

/-- The draws of every command's rule. -/
theorem drawsWithin_commandRule (i : Instr) (n : Nat) (c : InFlight) (m : Memory) :
    DrawsWithin i c.extRand (commandRule i n c m) := by
  cases i
  case emsaPssEncode => exact drawsWithin_emsaPssEncode _ c m
  case ps256Sign => exact drawsWithin_ps256Sign _ c m
  case es256Sign => exact drawsWithin_es256Sign _ c m
  all_goals exact .inl rfl

theorem drawsWithin_le {i : Instr} {x : Bool} {d : Completion} (h : DrawsWithin i x d) : d.draws ≤ maxDraws i := by
  obtain hzero | ⟨-, hle, -⟩ := h
  · rw [hzero]
    exact Nat.zero_le _
  · exact hle

theorem maxDraws_le (i : Instr) : maxDraws i ≤ 64 := by
  unfold maxDraws
  split
  · exact le_rfl
  · split <;> decide

theorem maxDraws_le_one {i : Instr} (h : i ≠ .es256Sign) : maxDraws i ≤ 1 := by
  rw [maxDraws, if_neg h]
  split <;> decide

/-- Settles O21: an error of a rule that has drawn is one of the two that can come after a draw. -/
theorem errorsArePrecise : Obligations.ErrorsArePrecise := by
  intro i s t h herr
  obtain ⟨c, -, ⟨o, -, -, rfl⟩ | ⟨e, he, rfl⟩⟩ := exec_next_cases h
  · cases herr
  · refine ⟨e, _, rfl, fun hdrawn => ?_⟩
    obtain hzero | ⟨-, -, hlate⟩ := drawsWithin_commandRule i s.rngDraws c s.dmem
    · exact absurd hzero hdrawn
    · exact hlate e he

/-! ### Commands that draw nothing -/

/-- A command that cannot draw, or has X = 1, draws nothing. -/
theorem commandRule_draws_eq_zero {i : Instr} {c : InFlight} (h : mayDraw i = false ∨ c.extRand = true) (n : Nat)
    (m : Memory) : (commandRule i n c m).draws = 0 := by
  rcases h with hno | hX
  · exact commandRule_draws hno n c m
  · obtain hzero | ⟨hX', -⟩ := drawsWithin_commandRule i n c m
    · exact hzero
    · exact absurd (hX.symm.trans hX') nofun

/-- The rule of a command that cannot draw, or has X = 1, does not ask the RNG (`70_reset_and_hazards.md` R349). -/
theorem commandRule_draw_congr {i : Instr} {c : InFlight} (h : mayDraw i = false ∨ c.extRand = true) (n n' : Nat)
    (m : Memory) : commandRule i n' c m = commandRule i n c m := by
  cases i
  case emsaPssEncode | ps256Sign | es256Sign =>
    obtain hno | hX := h
    · cases hno
    · simp only [commandRule, runEmsaPssEncode, runPs256Sign, runEs256Sign, hX, if_true]
  all_goals rfl

/-- A completion adds its draws to the count and reads it nowhere. -/
theorem complete_of_rngDraws (s : State) (d : Completion) (k : Nat) :
    State.complete { s with rngDraws := k } d = { s.complete d with rngDraws := k + d.draws } := by
  rcases d with ⟨e | o, n⟩ <;> rfl

/-- Settles O29: the count of draws rises by the draws of the rule, which stay within the command's bound. -/
theorem whatDraws : Obligations.WhatDraws := by
  intro i s t c hc ht
  rw [exec_eq_complete i hc, Host.Outcome.next.injEq] at ht
  subst ht
  have hbound := drawsWithin_le (drawsWithin_commandRule i s.rngDraws c s.dmem)
  simp only [State.complete_rngDraws]
  refine ⟨fun hno => ⟨?drawsNothing, fun k => ?independent⟩, Nat.le_add_right _ _, fun hi => ?once, ?bounded⟩
  case drawsNothing => rw [commandRule_draws_eq_zero hno, Nat.add_zero]
  case independent =>
    rw [exec_eq_complete (s := { s with rngDraws := k }) i hc, commandRule_draw_congr hno s.rngDraws k,
      complete_of_rngDraws, commandRule_draws_eq_zero hno, Nat.add_zero]
  case once => exact Nat.add_le_add_left (hbound.trans (maxDraws_le_one hi)) _
  case bounded => exact Nat.add_le_add_left (hbound.trans (maxDraws_le i)) _

end Sys2Proof.Proofs
end
